-- ==== Sys2Proof/Word.lean ====
section
/-! DEFINITION. The value types of the block: port words, field elements, extended elements, port addresses and
register indices (00_scope.md R6, 10_state.md R30 and R31, 20_memory.md R60). -/

namespace Sys2Proof

/-- WORD (R6): one unsigned 32-bit word, the unit of the port (R60) and of multi-word values (R9). -/
abbrev Word := BitVec 32

/-- A field register's value: FE_WORDS = 6 words, 192 bits (R6, R30). -/
abbrev FieldElement := BitVec 192

/-- An extended register's value: EXT_WORDS = 12 words, 384 bits (R6, R31). -/
abbrev ExtElement := BitVec 384

/-- A port word address, 12 bits (R60). -/
abbrev PortAddr := BitVec 12

/-- The 4-bit register field of a command word, an unsigned index (R90); as class F it names F[0] to F[15] (R30). -/
abbrev FReg := Fin 16

/-- The index of an extended register, X[0] to X[3] (R31). -/
abbrev XReg := Fin 4

end Sys2Proof
end

