-- ==== Sys2Proof/Syntax.lean ====
section
/-! DEFINITION. The fourteen commands of 30_encoding.md R91, one constructor per row of opcode_table.json. -/

namespace Sys2Proof

/-- A command with its register fields. An operand of class F is the index of a field register; an operand of class X
is the 4-bit field as it stands in the word (R90), legal only below NX = 4 (R96), which `Instr.wellFormed` checks.
A field of class NONE is left out: it must be 0 (R95). -/
inductive Instr where
  /-- F[rd] := Add(F[rs1], F[rs2]) (R121) -/
  | fadd (rd rs1 rs2 : FReg)
  /-- F[rd] := AddOne(F[rs1]) (R122) -/
  | fadd1 (rd rs1 : FReg)
  /-- F[rd] := Subtract(F[rs1], F[rs2]) (R123) -/
  | fsub (rd rs1 rs2 : FReg)
  /-- F[rd] := Negate(F[rs1]) (R124) -/
  | fneg (rd rs1 : FReg)
  /-- F[rd] := Twice(F[rs1]) (R125) -/
  | ftwice (rd rs1 : FReg)
  /-- F[rd] := Half(F[rs1]) (R126) -/
  | fhalf (rd rs1 : FReg)
  /-- F[rd] := Multiply(F[rs1], F[rs2]) (R161) -/
  | fmul (rd rs1 rs2 : FReg)
  /-- F[rd] := Square(F[rs1]) (R162) -/
  | fsqr (rd rs1 : FReg)
  /-- F[rd] := SquareN(F[rs1], sint32(ARG)) (R163) -/
  | fsqrn (rd rs1 : FReg)
  /-- F[rd] := Reduce(X[rs1]) (R186) -/
  | fred (rd : FReg) (rs1 : Fin 16)
  /-- F[rd] := Reduce32(ARG, F[rd]), in place (R187) -/
  | fred32 (rd : FReg)
  /-- F[rd] := FromBigInteger(F[rs1]), its 192-bit core (R211) -/
  | fcanon (rd rs1 : FReg)
  /-- X[rd] := AddExt(X[rs1], X[rs2]) (R212) -/
  | xadd (rd rs1 rs2 : Fin 16)
  /-- X[rd] := SubtractExt(X[rs1], X[rs2]) (R213) -/
  | xsub (rd rs1 rs2 : Fin 16)
  deriving DecidableEq, Repr

end Sys2Proof
end

