-- ==== Sys2Proof/WellFormed.lean ====
section
/-! DEFINITION. Which commands are legal: every field of class X below NX = 4 (30_encoding.md R96). A field of class F
has no illegal value (R91), and fields of class NONE and ZERO are not part of a command's syntax. -/

namespace Sys2Proof

/-- The range check of one class-X field (R96). -/
def extFieldLegal (r : Fin 16) : Bool := decide (r.val < 4)

/-- A command all of whose extended-register indices exist (R96). -/
def Instr.wellFormed : Instr → Bool
  | .fadd _ _ _ => true
  | .fadd1 _ _ => true
  | .fsub _ _ _ => true
  | .fneg _ _ => true
  | .ftwice _ _ => true
  | .fhalf _ _ => true
  | .fmul _ _ _ => true
  | .fsqr _ _ => true
  | .fsqrn _ _ => true
  | .fred _ rs1 => extFieldLegal rs1
  | .fred32 _ => true
  | .fcanon _ _ => true
  | .xadd rd rs1 rs2 => extFieldLegal rd && extFieldLegal rs1 && extFieldLegal rs2
  | .xsub rd rs1 rs2 => extFieldLegal rd && extFieldLegal rs1 && extFieldLegal rs2

end Sys2Proof
end

