-- ==== Sys2Proof/Decode.lean ====
section
/-! DEFINITION. Command words: the fields of format R (30_encoding.md R90), the operand classes (R91), the decoder,
total on every 32-bit word (R97, R100), and the encoder (R105). -/

namespace Sys2Proof

/-- OP, bits 31:27 (R90). -/
def opField (w : Word) : BitVec 5 := w.extractLsb' 27 5

/-- RD, bits 26:23 (R90). -/
def rdField (w : Word) : Fin 16 := (w.extractLsb' 23 4).toFin

/-- RS1, bits 22:19 (R90). -/
def rs1Field (w : Word) : Fin 16 := (w.extractLsb' 19 4).toFin

/-- RS2, bits 18:15 (R90). -/
def rs2Field (w : Word) : Fin 16 := (w.extractLsb' 15 4).toFin

/-- ZERO, bits 14:0 (R90). -/
def zeroField (w : Word) : BitVec 15 := w.extractLsb' 0 15

/-- The class of a register field (R91). -/
inductive OperandClass where
  /-- names a field register -/
  | f
  /-- names an extended register, legal below 4 (R96) -/
  | x
  /-- unused, must be 0 (R95) -/
  | none
  deriving DecidableEq, Repr

/-- Why a word encodes no command; each is the verdict ILLEGAL (R242). -/
inductive DecodeError where
  /-- OP = 0x00 or 0x0F to 0x1F (R93) -/
  | reservedOpcode
  /-- ZERO is not 0 (R94) -/
  | reservedField
  /-- a field of class NONE is not 0 (R95) -/
  | unusedField
  /-- a field of class X is 4 or more (R96) -/
  | extIndex
  deriving DecidableEq, Repr

/-- One row of R91's table: the classes of RD, RS1 and RS2, and the command they make. -/
structure CommandRow where
  rd : OperandClass
  rs1 : OperandClass
  rs2 : OperandClass
  build : Fin 16 → Fin 16 → Fin 16 → Instr

/-- R91's table by opcode; no row for a reserved opcode (R93). -/
def commandRow : Nat → Option CommandRow
  | 0x01 => some ⟨.f, .f, .f, fun d a b => .fadd d a b⟩
  | 0x02 => some ⟨.f, .f, .none, fun d a _ => .fadd1 d a⟩
  | 0x03 => some ⟨.f, .f, .f, fun d a b => .fsub d a b⟩
  | 0x04 => some ⟨.f, .f, .none, fun d a _ => .fneg d a⟩
  | 0x05 => some ⟨.f, .f, .none, fun d a _ => .ftwice d a⟩
  | 0x06 => some ⟨.f, .f, .none, fun d a _ => .fhalf d a⟩
  | 0x07 => some ⟨.f, .f, .f, fun d a b => .fmul d a b⟩
  | 0x08 => some ⟨.f, .f, .none, fun d a _ => .fsqr d a⟩
  | 0x09 => some ⟨.f, .f, .none, fun d a _ => .fsqrn d a⟩
  | 0x0A => some ⟨.f, .x, .none, fun d a _ => .fred d a⟩
  | 0x0B => some ⟨.f, .none, .none, fun d _ _ => .fred32 d⟩
  | 0x0C => some ⟨.f, .f, .none, fun d a _ => .fcanon d a⟩
  | 0x0D => some ⟨.x, .x, .x, fun d a b => .xadd d a b⟩
  | 0x0E => some ⟨.x, .x, .x, fun d a b => .xsub d a b⟩
  | _ => none

/-- The check R100 makes of one register field of its class: what is wrong with it, if anything. -/
def fieldError : OperandClass → Fin 16 → Option DecodeError
  | .f, _ => none
  | .x, r => if r.val < 4 then none else some .extIndex
  | .none, r => if r.val = 0 then none else some .unusedField

/-- The checks of RD, RS1 and RS2 in R100's order: the first that fails. -/
def CommandRow.error (row : CommandRow) (d a b : Fin 16) : Option DecodeError :=
  (fieldError row.rd d).or ((fieldError row.rs1 a).or (fieldError row.rs2 b))

/-- Decode (R100) but for FSQRN's look at ARG, which its meaning makes: the command a word encodes, or why none. -/
def decode (w : Word) : Except DecodeError Instr :=
  match commandRow (opField w).toNat with
  | none => .error .reservedOpcode
  | some row =>
    if zeroField w = 0 then
      match row.error (rdField w) (rs1Field w) (rs2Field w) with
      | none => .ok (row.build (rdField w) (rs1Field w) (rs2Field w))
      | some e => .error e
    else .error .reservedField

/-- `OP << 27 | RD << 23 | RS1 << 19 | RS2 << 15` (R105). -/
def encodeFields (op : BitVec 5) (d a b : Fin 16) : Word :=
  op ++ BitVec.ofFin (w := 4) d ++ BitVec.ofFin (w := 4) a ++ BitVec.ofFin (w := 4) b ++ 0#15

/-- A command's opcode (R92). -/
def Instr.opcode : Instr → BitVec 5
  | .fadd _ _ _ => 0x01
  | .fadd1 _ _ => 0x02
  | .fsub _ _ _ => 0x03
  | .fneg _ _ => 0x04
  | .ftwice _ _ => 0x05
  | .fhalf _ _ => 0x06
  | .fmul _ _ _ => 0x07
  | .fsqr _ _ => 0x08
  | .fsqrn _ _ => 0x09
  | .fred _ _ => 0x0A
  | .fred32 _ => 0x0B
  | .fcanon _ _ => 0x0C
  | .xadd _ _ _ => 0x0D
  | .xsub _ _ _ => 0x0E

/-- The encoder (R105), from R91's operand order; a field of class NONE is 0 (R95). -/
def encode : Instr → Word
  | .fadd d a b => encodeFields 0x01 d a b
  | .fadd1 d a => encodeFields 0x02 d a 0
  | .fsub d a b => encodeFields 0x03 d a b
  | .fneg d a => encodeFields 0x04 d a 0
  | .ftwice d a => encodeFields 0x05 d a 0
  | .fhalf d a => encodeFields 0x06 d a 0
  | .fmul d a b => encodeFields 0x07 d a b
  | .fsqr d a => encodeFields 0x08 d a 0
  | .fsqrn d a => encodeFields 0x09 d a 0
  | .fred d a => encodeFields 0x0A d a 0
  | .fred32 d => encodeFields 0x0B d 0 0
  | .fcanon d a => encodeFields 0x0C d a 0
  | .xadd d a b => encodeFields 0x0D d a b
  | .xsub d a b => encodeFields 0x0E d a b

/-- The command word of a table row's bits: every row is one 32-bit word, written to CMD whole (R99, R36), so the
table's numbering is the word's own and bits from nbits up are 0. -/
def tableWord (nbits w : Nat) : Word := BitVec.ofNat 32 (w % 2 ^ nbits)

/-- What the decoder reads from a word numbered as the opcode table numbers it. -/
def decodeTableWord (nbits w : Nat) : Option Instr :=
  match decode (tableWord nbits w) with
  | .ok i => some i
  | .error _ => none

end Sys2Proof
end

