-- ==== Sys2Proof/Config.lean ====
section
/-! DEFINITION. What the spec leaves open for an implementation, and the free values. Every constant here is opaque:
it has no body, so no proof can see which value it has, and a claim that is proved holds for every value. -/

namespace Sys2Proof

/-- The values of the parameter NONCANON (00_scope.md R6). -/
inductive NonCanon where
  /-- the result is the value the command's pseudocode computes -/
  | datapath
  /-- the result is an unspecified value of the destination's width -/
  | any
  deriving DecidableEq, Repr, Inhabited

/-- The parameter NONCANON, left OPEN by the spec (R6, R120, R210; 92_eei_decisions.md D12).
UNVERIFIED which value an implementation has; safe (log 3). -/
opaque Config.nonCanon : NonCanon

/-- The draw for a host read the spec calls unspecified (R65, R258(b), R270), applied to the step's draw number.
Safe (log 7). -/
opaque Config.freeWord : Nat → Word

/-- The draw for an add-type result on non-canonical inputs under NONCANON = any (R120, R258(c)). Safe (log 3). -/
opaque Config.freeField : Nat → FieldElement

/-- The draw for an XADD or XSUB result on inputs at or above PExt under NONCANON = any (R210). Safe (log 3). -/
opaque Config.freeExt : Nat → ExtElement

/-- The result of a command that read a field or extended register or ARG not written since reset, where its destination
is a field register: the spec gives such a command no defined result (R42, R258(a)). Safe (log 5). -/
opaque Config.uninitField : Nat → FieldElement

/-- The same where its destination is an extended register (R42, R258(a)). Safe (log 5). -/
opaque Config.uninitExt : Nat → ExtElement

/-- What a field register not written since reset holds, by draw number and register (R43, R271;
92_eei_decisions.md D21: "the block computes on whatever the register holds"). Safe (log 5). -/
opaque Config.unwrittenField : Nat → FReg → FieldElement

/-- What an extended register not written since reset holds (R43). Safe (log 5). -/
opaque Config.unwrittenExt : Nat → XReg → ExtElement

/-- What ARG holds when it was not written since reset (R43). Safe (log 5). -/
opaque Config.unwrittenArg : Nat → Word

end Sys2Proof
end

