-- ==== Sys2Proof/Machine/State.lean ====
section
/-! DEFINITION. The state of the block (10_state.md), as plain data, with the inputs still to come and the reasons a
step could stop. -/

namespace Sys2Proof.Machine

open Sys2Proof

/-- STATUS.ERRCODE's legal values, exactly these (R34). -/
inductive ErrCode where
  /-- 0: no fault since reset -/
  | none
  /-- 1: a word that encodes no command (R242) -/
  | illegal
  /-- 2: FSQRN with sint32(ARG) ≤ 0 (R243) -/
  | precond
  /-- 3: a command written while BUSY = 1 (R244) -/
  | busyCmd
  /-- 4: ARG or a window word written while BUSY = 1 (R245) -/
  | portBusy
  deriving DecidableEq, Repr

/-- A command in flight: its operation, its destination and the values of every register it reads, snapshotted at
acceptance (R38, R102); for FSUB also whether RD, RS1 and RS2 are one register (R123). -/
inductive Job where
  | fadd (rd : FReg) (a b : FieldElement)
  | fadd1 (rd : FReg) (a : FieldElement)
  | fsub (rd : FReg) (a b : FieldElement) (oneReg : Bool)
  | fneg (rd : FReg) (a : FieldElement)
  | ftwice (rd : FReg) (a : FieldElement)
  | fhalf (rd : FReg) (a : FieldElement)
  | fmul (rd : FReg) (a b : FieldElement)
  | fsqr (rd : FReg) (a : FieldElement)
  | fsqrn (rd : FReg) (a : FieldElement) (arg : Word)
  | fred (rd : FReg) (xx : ExtElement)
  | fred32 (rd : FReg) (arg : Word) (z : FieldElement)
  | fcanon (rd : FReg) (a : FieldElement)
  | xadd (rd : XReg) (a b : ExtElement)
  | xsub (rd : XReg) (a b : ExtElement)
  deriving DecidableEq, Repr

/-- The pending-command slot's contents: the accepted command word and the snapshot (R38), and whether the snapshot
includes a register not written since reset, so that the command has no defined result (R42, R258(a); log 5). -/
structure Pending where
  word : Word
  job : Job
  uninit : Bool
  deriving DecidableEq, Repr

/-- The one register write of a completing command (R103). -/
inductive RegWrite where
  | field (rd : FReg) (v : FieldElement)
  | ext (rd : XReg) (v : ExtElement)
  deriving DecidableEq, Repr

/-- What a port word address selects (R61, R62, R63). -/
inductive PortTarget where
  | cmd
  | arg
  | status
  | errInfo
  | fieldWord (r : FReg) (i : Fin 6)
  | extWord (r : XReg) (i : Fin 12)
  | reserved
  deriving DecidableEq, Repr

/-- One thing that happens to the block: a port access of its host (R60), a change of its reset input (R270), or the
point at which it takes its own completion step (R280, R282). DESIGN CHOICE, safe (log 1, log 2, log 10). -/
inductive Event where
  | read (addr : PortAddr)
  | write (addr : PortAddr) (v : Word)
  | blockStep
  | assertReset
  | releaseReset
  deriving DecidableEq, Repr

/-- The state of the block, its inputs to come and the model's two bookkeeping fields. -/
structure State where
  /-- the field register file (R30) -/
  f : Vector FieldElement 16
  /-- the extended register file (R31) -/
  x : Vector ExtElement 4
  /-- the argument register (R32) -/
  arg : Word
  /-- per field register, which words were written since reset; the mark of R42 is set when all are -/
  fWritten : Vector (BitVec 6) 16
  /-- per extended register, which words were written since reset (R42) -/
  xWritten : Vector (BitVec 12) 4
  /-- ARG's written-since-reset mark (R42) -/
  argWritten : Bool
  /-- the model outcome UNINIT of 60_exceptions.md R258(a), recorded: since reset a command was accepted whose snapshot
  included a register whose mark was clear (log 5) -/
  uninit : Bool
  /-- STATUS.ERR (R33) -/
  err : Bool
  /-- STATUS.ERRCODE (R33, R34) -/
  errCode : ErrCode
  /-- ERRINFO (R35) -/
  errInfo : Word
  /-- the pending-command slot (R38); BUSY = 1 exactly when it is not empty -/
  pending : Option Pending
  /-- the reset input is asserted (R270) -/
  resetAsserted : Bool
  /-- what will happen to the block, in order (the model's own field, log 1) -/
  inputs : List Event
  /-- the word the last step's port read returned, if it read (the model's own field, log 11) -/
  reply : Option Word
  /-- the draw number of the free values, advanced by each step (the model's own field, log 7) -/
  draws : Nat
  deriving DecidableEq, Repr

/-- The faults a step can end in: none. A hardware fault of this block is a recorded state (R240, R241), a next state
here; no operand value stops a command (R240); and UNINIT (R258(a)), no fault of the block (92_eei_decisions.md D21), is the
outcome of the run that `State.outcome` reports (log 5). Nobody raises one, which is safe. -/
inductive Fault where
  deriving DecidableEq, Repr

/-- The refusals a step can end in. -/
inductive Refusal where
  /-- An arm of exec whose command has no meaning yet; no arm raises it. Safe: it would stop the machine. -/
  | notModelled (mnemonic : String)
  deriving DecidableEq, Repr

/-- What a step or a meaning answers. -/
abbrev Answer := Host.Outcome State Fault Refusal

/-- The block right after reset is released (R43, R270, R273): idle, no fault, nothing written. The spec leaves the
contents of F, X and ARG unspecified: DESIGN CHOICE 0, which no port read and no command can see while the
register's mark is clear (log 4). -/
def State.reset : State where
  f := Vector.replicate 16 0
  x := Vector.replicate 4 0
  arg := 0
  fWritten := Vector.replicate 16 0
  xWritten := Vector.replicate 4 0
  argWritten := false
  uninit := false
  err := false
  errCode := .none
  errInfo := 0
  pending := Option.none
  resetAsserted := false
  inputs := []
  reply := Option.none
  draws := 0

end Sys2Proof.Machine
end

