-- ==== Sys2Proof/Machine/Words.lean ====
section
/-! DEFINITION. Words of multi-word values (00_scope.md R8, R9), the signed reading of a word (R8), and the hardwired
constants P and PExt (10_state.md R37). -/

namespace Sys2Proof.Machine

open Sys2Proof

/-- word_i(v) = (v >> 32·i) mod 2^32 (R9). -/
def wordAt {n : Nat} (v : BitVec n) (i : Nat) : Word := v.extractLsb' (32 * i) 32

/-- v with word i replaced by w and the other words unchanged (R62, R63). -/
def setWordAt {n : Nat} (v : BitVec n) (i : Nat) (w : Word) : BitVec n :=
  (v &&& ~~~((BitVec.allOnes 32).setWidth n <<< (32 * i))) ||| (w.setWidth n <<< (32 * i))

/-- val(w) = Σ w[i] · 2^(32·i), index 0 least significant (R9). -/
def val : List Nat → Nat
  | [] => 0
  | w :: ws => w + 2 ^ 32 * val ws

/-- sint32(w), the two's-complement value of a word (R8). -/
def sint32 (w : Word) : Int := w.toInt

/-- W192 = 2^192 (R7). -/
def w192 : Nat := 2 ^ 192

/-- W384 = 2^384 (R7). -/
def w384 : Nat := 2 ^ 384

/-- P = 2^192 − 2^64 − 1 (R37). -/
def primeP : Nat := 2 ^ 192 - 2 ^ 64 - 1

/-- PExt = P², in the words R37 gives, most significant first (92_eei_decisions.md D20). -/
def primePExt : Nat :=
  0xFFFFFFFFFFFFFFFFFFFFFFFFFFFFFFFDFFFFFFFFFFFFFFFE000000000000000100000000000000020000000000000001

/-- P5, the most significant word of P (R18, R37). -/
def topWordP : Word := 0xFFFFFFFF

/-- PExt11, the most significant word of PExt (R18, R37). -/
def topWordPExt : Word := 0xFFFFFFFF

/-- A 192-bit value is canonical when it is below P (R14). -/
def canonical (v : FieldElement) : Bool := decide (v.toNat < primeP)

/-- "Canonical" for an extended value: below PExt (R210). -/
def extCanonical (v : ExtElement) : Bool := decide (v.toNat < primePExt)

end Sys2Proof.Machine
end

