-- ==== Sys2Proof/Machine/Flags.lean ====
section
/-! DEFINITION. The block has no condition codes (10_state.md R40). Its status bits are the STATUS register's (R33),
built here, and the carries and borrows a command consumes inside itself are those of the corrections R12, R13. -/

namespace Sys2Proof.Machine

open Sys2Proof

/-- The number of an ERRCODE value (R34). -/
def ErrCode.bits : ErrCode → BitVec 4
  | .none => 0
  | .illegal => 1
  | .precond => 2
  | .busyCmd => 3
  | .portBusy => 4

/-- STATUS.BUSY: 1 exactly when the pending-command slot is not empty (R33, R38). -/
def State.busy (s : State) : Bool := s.pending.isSome

/-- The STATUS register as the host reads it: BUSY at bit 0, ERR at bit 1, ERRCODE at 7:4, the rest 0 (R33). -/
def State.statusWord (s : State) : Word :=
  0#24 ++ s.errCode.bits ++ 0#2 ++ BitVec.ofBool s.err ++ BitVec.ofBool s.busy

/-- SubPOnce192(s) for an exact sum s < 2^193: subtract P once on a carry out of 192 bits or when the 192-bit sum is
at least P (R12). -/
def subPOnce192 (s : Nat) : FieldElement :=
  if s ≥ w192 ∨ s % w192 ≥ primeP then BitVec.ofNat 192 (s - primeP) else BitVec.ofNat 192 s

/-- SubPExtOnce384(s) for an exact sum s < 2^385 (R13). -/
def subPExtOnce384 (s : Nat) : ExtElement :=
  if s ≥ w384 ∨ s % w384 ≥ primePExt then BitVec.ofNat 384 (s - primePExt) else BitVec.ofNat 384 s

/-- The raw 192-bit difference with one addition of P on a borrow, modulo W192 (R123). -/
def subAddPOnce192 (a b : FieldElement) : FieldElement :=
  if a.toNat < b.toNat then BitVec.ofInt 192 ((a.toNat : Int) - b.toNat + primeP)
  else BitVec.ofNat 192 (a.toNat - b.toNat)

/-- The raw 384-bit difference with one addition of PExt on a borrow, modulo W384 (R213). -/
def subAddPExtOnce384 (a b : ExtElement) : ExtElement :=
  if a.toNat < b.toNat then BitVec.ofInt 384 ((a.toNat : Int) - b.toNat + primePExt)
  else BitVec.ofNat 384 (a.toNat - b.toNat)

end Sys2Proof.Machine
end

