-- ==== Sys2Proof/Machine/Ops.lean ====
section
/-! DEFINITION. The named operations over the state: raising a fault (60_exceptions.md R241), register writes with their
written-since-reset marks (10_state.md R42), acceptance (30_encoding.md R101), the completing write (R103) and reset
(70_reset_and_hazards.md R270). -/

namespace Sys2Proof.Machine

open Sys2Proof

/-- raise Fault(code, info): only the first fault since reset is recorded, and nothing else changes (R241). This is the
whole of taking a fault: there is no trap entry (R249) and no return but reset (R250). -/
def State.raiseFault (s : State) (code : ErrCode) (info : Word) : State :=
  if s.err then s else { s with err := true, errCode := code, errInfo := info }

/-- The mark of F[r]: every word of it was written since reset (R42). -/
def State.fMarked (s : State) (r : FReg) : Bool := s.fWritten[r] == BitVec.allOnes 6

/-- The mark of X[r] (R42). -/
def State.xMarked (s : State) (r : XReg) : Bool := s.xWritten[r] == BitVec.allOnes 12

/-- F[r] <- v by a command: the whole register, which marks it (R11, R42). -/
def State.writeField (s : State) (r : FReg) (v : FieldElement) : State :=
  { s with f := s.f.set r v, fWritten := s.fWritten.set r (BitVec.allOnes 6) }

/-- X[r] <- v by a command (R11, R42). -/
def State.writeExt (s : State) (r : XReg) (v : ExtElement) : State :=
  { s with x := s.x.set r v, xWritten := s.xWritten.set r (BitVec.allOnes 12) }

/-- A host write of word i of F[r] that lands (R62, R42). -/
def State.writeFieldWord (s : State) (r : FReg) (i : Fin 6) (v : Word) : State :=
  { s with f := s.f.set r (setWordAt s.f[r] i v), fWritten := s.fWritten.set r (s.fWritten[r] ||| (1#6 <<< i.val)) }

/-- A host write of word i of X[r] that lands (R63, R42). -/
def State.writeExtWord (s : State) (r : XReg) (i : Fin 12) (v : Word) : State :=
  { s with x := s.x.set r (setWordAt s.x[r] i v), xWritten := s.xWritten.set r (s.xWritten[r] ||| (1#12 <<< i.val)) }

/-- A host write of ARG that lands (R32, R42). -/
def State.writeArg (s : State) (v : Word) : State := { s with arg := v, argWritten := true }

/-- The completing command's one register write (R103). -/
def State.writeBack (s : State) : RegWrite → State
  | .field r v => s.writeField r v
  | .ext r v => s.writeExt r v

/-- The first two checks of Accept (R101, in R246's order): with ERR = 1 the word is ignored, with BUSY = 1 it raises
BUSYCMD; else the word is taken and `taken` is what then happens. -/
def State.checked (s : State) (word : Word) (taken : State) : State :=
  if s.err then s else if s.busy then s.raiseFault .busyCmd word else taken

/-- Accept of a word that encodes no command (R101, R242). -/
def State.rejectIllegal (s : State) (word : Word) : State := s.checked word (s.raiseFault .illegal word)

/-- A host write that needs BUSY = 0: dropped with PORTBUSY while BUSY = 1, else it lands as `landed` (R66, R245). -/
def State.portWrite (s : State) (addr : PortAddr) (landed : State) : State :=
  if s.busy then s.raiseFault .portBusy (addr.setWidth 32) else landed

/-- Reset asserted (R270, R43, R271): STATUS and ERRINFO 0, the slot empty, the marks and UNINIT clear, and the contents of F, X
and ARG unspecified, so they are drawn. The inputs to come and the model's own fields are not the block's state. -/
def State.assertReset (s : State) : State :=
  { s with
    f := Vector.ofFn (Config.unwrittenField s.draws)
    x := Vector.ofFn (Config.unwrittenExt s.draws)
    arg := Config.unwrittenArg s.draws
    fWritten := Vector.replicate 16 0
    xWritten := Vector.replicate 4 0
    argWritten := false
    uninit := false
    err := false
    errCode := .none
    errInfo := 0
    pending := none
    resetAsserted := true }

/-- Reset released: the block is ready at once (R273). -/
def State.releaseReset (s : State) : State := { s with resetAsserted := false }

end Sys2Proof.Machine
end

