-- ==== Sys2Proof/Machine/Operands.lean ====
section
/-! DEFINITION. Operand forms: the values a command's snapshot takes (30_encoding.md R98, R102), the range of a class-X
field (R96), the acceptance of a command with its snapshot (R101), and the parameter NONCANON on a command's result
(40_field_addsub.md R120, 43_canon_ext.md R210). -/

namespace Sys2Proof.Machine

open Sys2Proof

/-- The value of F[r] in a snapshot (R102). A register not written since reset holds an unspecified value (R43), which
is free (log 5). -/
def State.fieldOperand (s : State) (r : FReg) : FieldElement :=
  if s.fMarked r then s.f[r] else Config.unwrittenField s.draws r

/-- The value of X[r] in a snapshot (R102). -/
def State.extOperand (s : State) (r : XReg) : ExtElement :=
  if s.xMarked r then s.x[r] else Config.unwrittenExt s.draws r

/-- The value of ARG in a snapshot, and the one FSQRN's check looks at (R100, R102). -/
def State.argOperand (s : State) : Word :=
  if s.argWritten then s.arg else Config.unwrittenArg s.draws

/-- The extended register a class-X field names, if its index is below NX (R96). -/
def extIndex (r : Fin 16) : Option XReg := if h : r.val < 4 then some ⟨r.val, h⟩ else none

/-- The command's snapshot includes a register whose written-since-reset mark is clear (60_exceptions.md R258(a)). -/
def State.uninitRead (s : State) : Instr → Bool
  | .fadd _ a b => !s.fMarked a || !s.fMarked b
  | .fadd1 _ a => !s.fMarked a
  | .fsub _ a b => !s.fMarked a || !s.fMarked b
  | .fneg _ a => !s.fMarked a
  | .ftwice _ a => !s.fMarked a
  | .fhalf _ a => !s.fMarked a
  | .fmul _ a b => !s.fMarked a || !s.fMarked b
  | .fsqr _ a => !s.fMarked a
  | .fsqrn _ a => !s.fMarked a || !s.argWritten
  | .fred _ a => (extIndex a).any fun r => !s.xMarked r
  | .fred32 d => !s.fMarked d || !s.argWritten
  | .fcanon _ a => !s.fMarked a
  | .xadd _ a b => ((extIndex a).any fun r => !s.xMarked r) || (extIndex b).any fun r => !s.xMarked r
  | .xsub _ a b => ((extIndex a).any fun r => !s.xMarked r) || (extIndex b).any fun r => !s.xMarked r

/-- Accept's case OK: the word and the snapshot enter the slot, which sets BUSY (R101, 10_state.md R38); and where the
snapshot includes an unmarked register the model outcome UNINIT is recorded, and in the slot that the command has no
defined result (60_exceptions.md R258(a), 10_state.md R42; log 5). -/
def State.launch (s : State) (i : Instr) (job : Job) : State :=
  { s with pending := some ⟨encode i, job, s.uninitRead i⟩, uninit := s.uninit || s.uninitRead i }

/-- Accept a legal command with the given snapshot (R101). -/
def State.accept (s : State) (i : Instr) (job : Job) : State := s.checked (encode i) (s.launch i job)

/-- An add-type result: the datapath's value, but under NONCANON = any a draw (R120), unless it is `settled`: the inputs
are canonical, or the command's rule gives the value whether or not they are (FSUB of one register, R123; log 15). -/
def nonCanonField (settled : Bool) (datapath : FieldElement) (draw : Nat) : FieldElement :=
  if settled then datapath
  else match Config.nonCanon with
    | .datapath => datapath
    | .any => Config.freeField draw

/-- The same for XADD and XSUB, whose inputs are canonical when below PExt (R210). -/
def nonCanonExt (inputsCanonical : Bool) (datapath : ExtElement) (draw : Nat) : ExtElement :=
  if inputsCanonical then datapath
  else match Config.nonCanon with
    | .datapath => datapath
    | .any => Config.freeExt draw

end Sys2Proof.Machine
end

