-- ==== Sys2Proof/Machine/AddSub.lean ====
section
/-! DEFINITION. The single-width add-type commands FADD, FADD1, FSUB, FNEG, FTWICE, FHALF (40_field_addsub.md). For each:
the datapath of its pseudocode on every 192-bit input, its result under NONCANON (R120), and its meaning, which is its
acceptance (30_encoding.md R101) with the snapshot it takes (R102); the result is written at completion (R103). -/

namespace Sys2Proof.Machine

open Sys2Proof

/-- FADD's pseudocode (R121). -/
def faddDatapath (a b : FieldElement) : FieldElement := subPOnce192 (a.toNat + b.toNat)

/-- FADD's result (R121, R120). -/
def faddResult (a b : FieldElement) (draw : Nat) : FieldElement :=
  nonCanonField (canonical a && canonical b) (faddDatapath a b) draw

/-- FADD (R121). -/
def execFadd (rd rs1 rs2 : FReg) (s : State) : Answer :=
  .next (s.accept (.fadd rd rs1 rs2) (.fadd rd (s.fieldOperand rs1) (s.fieldOperand rs2)))

/-- FADD1's pseudocode (R122). -/
def fadd1Datapath (a : FieldElement) : FieldElement := subPOnce192 (a.toNat + 1)

/-- FADD1's result (R122, R120). -/
def fadd1Result (a : FieldElement) (draw : Nat) : FieldElement :=
  nonCanonField (canonical a) (fadd1Datapath a) draw

/-- FADD1 (R122). -/
def execFadd1 (rd rs1 : FReg) (s : State) : Answer :=
  .next (s.accept (.fadd1 rd rs1) (.fadd1 rd (s.fieldOperand rs1)))

/-- FSUB's pseudocode (R123). -/
def fsubDatapath (a b : FieldElement) : FieldElement := subAddPOnce192 a b

/-- FSUB's result (R123, R120). With RD = RS1 = RS2 it is the datapath's 0 'whatever F[RS1] held, canonical or not'
(R123's corner cases; log 15). -/
def fsubResult (oneReg : Bool) (a b : FieldElement) (draw : Nat) : FieldElement :=
  nonCanonField ((canonical a && canonical b) || oneReg) (fsubDatapath a b) draw

/-- FSUB (R123). -/
def execFsub (rd rs1 rs2 : FReg) (s : State) : Answer :=
  .next (s.accept (.fsub rd rs1 rs2) (.fsub rd (s.fieldOperand rs1) (s.fieldOperand rs2)
    (rd == rs1 && rs1 == rs2)))

/-- FNEG's pseudocode (R124): the raw 192-bit P − a, but 0 for a = 0. -/
def fnegDatapath (a : FieldElement) : FieldElement :=
  if a.toNat = 0 then 0 else BitVec.ofInt 192 ((primeP : Int) - a.toNat)

/-- FNEG's result (R124, R120). -/
def fnegResult (a : FieldElement) (draw : Nat) : FieldElement :=
  nonCanonField (canonical a) (fnegDatapath a) draw

/-- FNEG (R124). -/
def execFneg (rd rs1 : FReg) (s : State) : Answer :=
  .next (s.accept (.fneg rd rs1) (.fneg rd (s.fieldOperand rs1)))

/-- FTWICE's pseudocode (R125): the 193-bit left shift, corrected once. -/
def ftwiceDatapath (a : FieldElement) : FieldElement := subPOnce192 (a.toNat <<< 1)

/-- FTWICE's result (R125, R120). -/
def ftwiceResult (a : FieldElement) (draw : Nat) : FieldElement :=
  nonCanonField (canonical a) (ftwiceDatapath a) draw

/-- FTWICE (R125). -/
def execFtwice (rd rs1 : FReg) (s : State) : Answer :=
  .next (s.accept (.ftwice rd rs1) (.ftwice rd (s.fieldOperand rs1)))

/-- FHALF's pseudocode (R126): for odd a the carry of a + P becomes bit 191 of the result. -/
def fhalfDatapath (a : FieldElement) : FieldElement :=
  if a.toNat % 2 = 0 then BitVec.ofNat 192 (a.toNat >>> 1)
  else BitVec.ofNat 192 ((a.toNat + primeP) >>> 1)

/-- FHALF's result (R126, R120). -/
def fhalfResult (a : FieldElement) (draw : Nat) : FieldElement :=
  nonCanonField (canonical a) (fhalfDatapath a) draw

/-- FHALF (R126). -/
def execFhalf (rd rs1 : FReg) (s : State) : Answer :=
  .next (s.accept (.fhalf rd rs1) (.fhalf rd (s.fieldOperand rs1)))

end Sys2Proof.Machine
end

