-- ==== Sys2Proof/Machine/CanonExt.lean ====
section
/-! DEFINITION. The canonicalizing entry FCANON and the extended-width commands XADD and XSUB (43_canon_ext.md). -/

namespace Sys2Proof.Machine

open Sys2Proof

/-- FCANON's result (R211): P is subtracted once if the value has P's top word and is at least P. -/
def fcanonResult (a : FieldElement) : FieldElement :=
  if wordAt a 5 = topWordP ∧ a.toNat ≥ primeP then BitVec.ofNat 192 (a.toNat - primeP) else a

/-- FCANON (R211). -/
def execFcanon (rd rs1 : FReg) (s : State) : Answer :=
  .next (s.accept (.fcanon rd rs1) (.fcanon rd (s.fieldOperand rs1)))

/-- XADD's pseudocode (R212). -/
def xaddDatapath (a b : ExtElement) : ExtElement := subPExtOnce384 (a.toNat + b.toNat)

/-- XADD's result (R212, R210). -/
def xaddResult (a b : ExtElement) (draw : Nat) : ExtElement :=
  nonCanonExt (extCanonical a && extCanonical b) (xaddDatapath a b) draw

/-- XADD (R212); an extended index of 4 or more makes the command illegal (R96). -/
def execXadd (rd rs1 rs2 : Fin 16) (s : State) : Answer :=
  .next (match extIndex rd, extIndex rs1, extIndex rs2 with
    | some d, some a, some b => s.accept (.xadd rd rs1 rs2) (.xadd d (s.extOperand a) (s.extOperand b))
    | _, _, _ => s.rejectIllegal (encode (.xadd rd rs1 rs2)))

/-- XSUB's pseudocode (R213). -/
def xsubDatapath (a b : ExtElement) : ExtElement := subAddPExtOnce384 a b

/-- XSUB's result (R213, R210). -/
def xsubResult (a b : ExtElement) (draw : Nat) : ExtElement :=
  nonCanonExt (extCanonical a && extCanonical b) (xsubDatapath a b) draw

/-- XSUB (R213); an extended index of 4 or more makes the command illegal (R96). -/
def execXsub (rd rs1 rs2 : Fin 16) (s : State) : Answer :=
  .next (match extIndex rd, extIndex rs1, extIndex rs2 with
    | some d, some a, some b => s.accept (.xsub rd rs1 rs2) (.xsub d (s.extOperand a) (s.extOperand b))
    | _, _, _ => s.rejectIllegal (encode (.xsub rd rs1 rs2)))

end Sys2Proof.Machine
end

