-- ==== Sys2Proof/Machine/Reduce.lean ====
section
/-! DEFINITION. The reduction pipeline (42_reduce.md): Fold (R181), CarryFold (R183), Correct (R184), Reduce (R185), and
the commands FRED (R186) and FRED32 (R187). All sums are exact natural numbers, as the rules say. -/

namespace Sys2Proof.Machine

open Sys2Proof

/-- Stage 1 (R181), line by line: the six output words and the carry. -/
def fold (xx : ExtElement) : Nat × FieldElement :=
  let w := fun i => (wordAt xx i).toNat
  let t0 := w 6 + w 10
  let t1 := w 7 + w 11
  let acc0 := w 0 + t0
  let acc1 := acc0 >>> 32 + w 1 + t1
  let t0' := t0 + w 8
  let t1' := t1 + w 9
  let acc2 := acc1 >>> 32 + w 2 + t0'
  let acc3 := acc2 >>> 32 + w 3 + t1'
  let t0'' := t0' - w 6
  let t1'' := t1' - w 7
  let acc4 := acc3 >>> 32 + w 4 + t0''
  let acc5 := acc4 >>> 32 + w 5 + t1''
  (acc5 >>> 32, BitVec.ofNat 192 (val [acc0 % 2 ^ 32, acc1 % 2 ^ 32, acc2 % 2 ^ 32, acc3 % 2 ^ 32, acc4 % 2 ^ 32, acc5 % 2 ^ 32]))

/-- Stage 2a (R183): the whole carry word x at word-offsets 0 and 2 (90_conflicts.md C1), rippled through word 5; the
value includes the carry out of word 5. -/
def carryFold (x : Nat) (z : FieldElement) : Nat :=
  let w := fun i => (wordAt z i).toNat
  let acc0 := w 0 + x
  let acc1 := w 1 + acc0 >>> 32
  let acc2 := w 2 + x + acc1 >>> 32
  let acc3 := w 3 + acc2 >>> 32
  let acc4 := w 4 + acc3 >>> 32
  let acc5 := w 5 + acc4 >>> 32
  (acc5 >>> 32) * w192 + val [acc0 % 2 ^ 32, acc1 % 2 ^ 32, acc2 % 2 ^ 32, acc3 % 2 ^ 32, acc4 % 2 ^ 32, acc5 % 2 ^ 32]

/-- Stage 2b (R184), for v < 2^193: subtract P once, by adding 2^64 + 1 modulo W192, when the fold carried out of 192
bits (90_conflicts.md C2) or the 192-bit value has P's top word and is at least P. -/
def correct (v : Nat) : FieldElement :=
  let ov := v >>> 192
  let zl : FieldElement := BitVec.ofNat 192 v
  if ov = 1 ∨ (wordAt zl 5 = topWordP ∧ zl.toNat ≥ primeP) then BitVec.ofNat 192 (zl.toNat + 2 ^ 64 + 1) else zl

/-- Reduce (R180, R185). -/
def reduce (xx : ExtElement) : FieldElement := correct (carryFold (fold xx).1 (fold xx).2)

/-- Reduce32 (R187): stage 2 alone, with a host-supplied carry word. -/
def reduce32 (carry : Word) (z : FieldElement) : FieldElement := correct (carryFold carry.toNat z)

/-- FRED's result (R186). -/
def fredResult (xx : ExtElement) : FieldElement := reduce xx

/-- FRED (R186); an extended index of 4 or more makes the command illegal (R96). -/
def execFred (rd : FReg) (rs1 : Fin 16) (s : State) : Answer :=
  .next (match extIndex rs1 with
    | some a => s.accept (.fred rd rs1) (.fred rd (s.extOperand a))
    | none => s.rejectIllegal (encode (.fred rd rs1)))

/-- FRED32's result (R187). -/
def fred32Result (arg : Word) (z : FieldElement) : FieldElement := reduce32 arg z

/-- FRED32 (R187): its one register operand is RD, read and written. -/
def execFred32 (rd : FReg) (s : State) : Answer :=
  .next (s.accept (.fred32 rd) (.fred32 rd s.argOperand (s.fieldOperand rd)))

end Sys2Proof.Machine
end

