-- ==== Sys2Proof/Machine/Multiply.lean ====
section
/-! DEFINITION. The multiply family FMUL, FSQR, FSQRN (41_multiply.md): the exact 384-bit product in scratch (R160)
through the reduction pipeline. Every 192-bit input is allowed, so NONCANON does not apply. -/

namespace Sys2Proof.Machine

open Sys2Proof

/-- Mul384(a, b) = a · b, exact in 384 bits (R160). -/
def mul384 (a b : FieldElement) : ExtElement := BitVec.ofNat 384 (a.toNat * b.toNat)

/-- Sqr384(a) = a · a (R160). -/
def sqr384 (a : FieldElement) : ExtElement := BitVec.ofNat 384 (a.toNat * a.toNat)

/-- FMUL's result (R161). -/
def fmulResult (a b : FieldElement) : FieldElement := reduce (mul384 a b)

/-- FMUL (R161). -/
def execFmul (rd rs1 rs2 : FReg) (s : State) : Answer :=
  .next (s.accept (.fmul rd rs1 rs2) (.fmul rd (s.fieldOperand rs1) (s.fieldOperand rs2)))

/-- FSQR's result (R162). -/
def fsqrResult (a : FieldElement) : FieldElement := reduce (sqr384 a)

/-- FSQR (R162). -/
def execFsqr (rd rs1 : FReg) (s : State) : Answer :=
  .next (s.accept (.fsqr rd rs1) (.fsqr rd (s.fieldOperand rs1)))

/-- `repeat k times: z <- Reduce(Sqr384(z))` (R163). -/
def squareTimes : Nat → FieldElement → FieldElement
  | 0, z => z
  | k + 1, z => reduce (sqr384 (squareTimes k z))

/-- FSQRN's result for the count word arg, n = sint32(arg) ≥ 1: one squaring, then n − 1 more (R163). -/
def fsqrnResult (a : FieldElement) (arg : Word) : FieldElement :=
  squareTimes ((sint32 arg).toNat - 1) (reduce (sqr384 a))

/-- FSQRN (R163): with sint32(ARG) ≤ 0 it is rejected with PRECOND (R243), after the checks that win over it (R246). -/
def execFsqrn (rd rs1 : FReg) (s : State) : Answer :=
  .next (s.checked (encode (.fsqrn rd rs1))
    (if sint32 s.argOperand ≤ 0 then s.raiseFault .precond (encode (.fsqrn rd rs1))
     else s.launch (.fsqrn rd rs1) (.fsqrn rd (s.fieldOperand rs1) s.argOperand)))

end Sys2Proof.Machine
end

