-- ==== Sys2Proof/Machine/Complete.lean ====
section
/-! DEFINITION. The block's completion step (30_encoding.md R103, 10_state.md R38, 70_reset_and_hazards.md R282). -/

namespace Sys2Proof.Machine

open Sys2Proof

/-- The register write a command in flight completes with: the function its rule gives of the snapshot alone (R102,
R103); the draw number is used only under NONCANON = any (R120, R210). -/
def Job.result (draw : Nat) : Job → RegWrite
  | .fadd rd a b => .field rd (faddResult a b draw)
  | .fadd1 rd a => .field rd (fadd1Result a draw)
  | .fsub rd a b oneReg => .field rd (fsubResult oneReg a b draw)
  | .fneg rd a => .field rd (fnegResult a draw)
  | .ftwice rd a => .field rd (ftwiceResult a draw)
  | .fhalf rd a => .field rd (fhalfResult a draw)
  | .fmul rd a b => .field rd (fmulResult a b)
  | .fsqr rd a => .field rd (fsqrResult a)
  | .fsqrn rd a arg => .field rd (fsqrnResult a arg)
  | .fred rd xx => .field rd (fredResult xx)
  | .fred32 rd arg z => .field rd (fred32Result arg z)
  | .fcanon rd a => .field rd (fcanonResult a)
  | .xadd rd a b => .ext rd (xaddResult a b draw)
  | .xsub rd a b => .ext rd (xsubResult a b draw)

/-- The write to the same destination of a value that nothing constrains, for a command with no defined result
(10_state.md R42, 60_exceptions.md R258(a); log 5). -/
def RegWrite.undefined (draw : Nat) : RegWrite → RegWrite
  | .field rd _ => .field rd (Config.uninitField draw)
  | .ext rd _ => .ext rd (Config.uninitExt draw)

/-- The register write the slot's command completes with (R103). -/
def Pending.result (draw : Nat) (p : Pending) : RegWrite :=
  if p.uninit then (p.job.result draw).undefined draw else p.job.result draw

/-- Complete (R103): the destination is written as one update, the slot is emptied, BUSY becomes 0, and nothing else
changes. With no command in flight there is nothing to complete and the block holds its state (R257). -/
def State.complete (s : State) : State :=
  match s.pending with
  | none => s
  | some p => { s with pending := none }.writeBack (p.result s.draws)

end Sys2Proof.Machine
end

