-- ==== Sys2Proof/Machine/Dispatch.lean ====
section
/-! DEFINITION. The meaning of each command, one arm per constructor. -/

namespace Sys2Proof.Machine

open Sys2Proof

/-- A command word delivered to the block: its acceptance (30_encoding.md R101), one arm per row of R91. -/
def exec (i : Instr) (s : State) : Host.Outcome State Fault Refusal :=
  match i with
  | .fadd rd rs1 rs2 => Sys2Proof.Machine.execFadd rd rs1 rs2 s
  | .fadd1 rd rs1 => Sys2Proof.Machine.execFadd1 rd rs1 s
  | .fsub rd rs1 rs2 => Sys2Proof.Machine.execFsub rd rs1 rs2 s
  | .fneg rd rs1 => Sys2Proof.Machine.execFneg rd rs1 s
  | .ftwice rd rs1 => Sys2Proof.Machine.execFtwice rd rs1 s
  | .fhalf rd rs1 => Sys2Proof.Machine.execFhalf rd rs1 s
  | .fmul rd rs1 rs2 => Sys2Proof.Machine.execFmul rd rs1 rs2 s
  | .fsqr rd rs1 => Sys2Proof.Machine.execFsqr rd rs1 s
  | .fsqrn rd rs1 => Sys2Proof.Machine.execFsqrn rd rs1 s
  | .fred rd rs1 => Sys2Proof.Machine.execFred rd rs1 s
  | .fred32 rd => Sys2Proof.Machine.execFred32 rd s
  | .fcanon rd rs1 => Sys2Proof.Machine.execFcanon rd rs1 s
  | .xadd rd rs1 rs2 => Sys2Proof.Machine.execXadd rd rs1 rs2 s
  | .xsub rd rs1 rs2 => Sys2Proof.Machine.execXsub rd rs1 rs2 s

end Sys2Proof.Machine
end

