-- ==== Sys2Proof/Machine/Port.lean ====
section
/-! DEFINITION. The host port (20_memory.md): its address map, host reads, host writes, the delivery of a command word
(30_encoding.md R101), and what each event does to the block. -/

namespace Sys2Proof.Machine

open Sys2Proof

/-- The field register window (R62): F[r] word i at 0x100 + 8·r + i; word offsets 6 and 7 are reserved. -/
def fieldWindow (a : PortAddr) : PortTarget :=
  if h : (a.extractLsb' 0 3).toNat < 6 then .fieldWord (a.extractLsb' 3 4).toFin ⟨(a.extractLsb' 0 3).toNat, h⟩
  else .reserved

/-- The extended register window (R63): X[r] word i at 0x200 + 16·r + i; word offsets 12 to 15 are reserved. -/
def extWindow (a : PortAddr) : PortTarget :=
  if h : (a.extractLsb' 0 4).toNat < 12 then .extWord (a.extractLsb' 4 2).toFin ⟨(a.extractLsb' 0 4).toNat, h⟩
  else .reserved

/-- The address map (R61). -/
def portTarget (a : PortAddr) : PortTarget :=
  if a = 0x000 then .cmd
  else if a = 0x001 then .arg
  else if a = 0x002 then .status
  else if a = 0x003 then .errInfo
  else if 0x100 ≤ a.toNat ∧ a.toNat ≤ 0x17F then fieldWindow a
  else if 0x200 ≤ a.toNat ∧ a.toNat ≤ 0x23F then extWindow a
  else .reserved

/-- The word a host read returns (R65): unspecified, so a draw, while reset is asserted (R270), for a window word
while BUSY = 1, and for a word of a register whose mark is clear (R42). -/
def State.hostRead (s : State) (a : PortAddr) : Word :=
  if s.resetAsserted then Config.freeWord s.draws
  else match portTarget a with
    | .cmd => 0
    | .arg => if s.argWritten then s.arg else Config.freeWord s.draws
    | .status => s.statusWord
    | .errInfo => s.errInfo
    | .fieldWord r i => if s.busy || !s.fMarked r then Config.freeWord s.draws else wordAt s.f[r] i
    | .extWord r i => if s.busy || !s.xMarked r then Config.freeWord s.draws else wordAt s.x[r] i
    | .reserved => 0

/-- A word delivered to CMD (R36, R101): decoded, and accepted as its command's meaning says, or rejected. -/
def deliverCommand (w : Word) (s : State) : Answer :=
  match decode w with
  | .ok i => exec i s
  | .error _ => .next (s.rejectIllegal w)

/-- A host write (R66), with reset not asserted: to CMD a command, to ARG or a window word a register write that needs
BUSY = 0, elsewhere ignored (R64). -/
def hostWrite (a : PortAddr) (v : Word) (s : State) : Answer :=
  match portTarget a with
  | .cmd => deliverCommand v s
  | .arg => .next (s.portWrite a (s.writeArg v))
  | .fieldWord r i => .next (s.portWrite a (s.writeFieldWord r i v))
  | .extWord r i => .next (s.portWrite a (s.writeExtWord r i v))
  | .status => .next s
  | .errInfo => .next s
  | .reserved => .next s

/-- What happens next: the first input still to come. With none left only the block's own completion step can be
taken (R282). -/
def State.nextEvent (s : State) : Event :=
  match s.inputs with
  | [] => .blockStep
  | e :: _ => e

/-- The state in which that event is met: the event is consumed, no word has been read yet, and the draw number is
fresh. -/
def State.consume (s : State) : State :=
  { s with inputs := s.inputs.tail, reply := none, draws := s.draws + 1 }

/-- One event. While reset is asserted a port write has no effect (R270). -/
def runEvent (e : Event) (s : State) : Answer :=
  match e with
  | .read a => .next { s with reply := some (s.hostRead a) }
  | .write a v => if s.resetAsserted then .next s else hostWrite a v s
  | .blockStep => .next s.complete
  | .assertReset => .next s.assertReset
  | .releaseReset => .next s.releaseReset

end Sys2Proof.Machine
end

