-- ==== Sys2Proof/Machine/Step.lean ====
section
/-! DEFINITION. One step of the block, and the placing of a command word where the next step takes it. -/

namespace Sys2Proof.Machine

open Sys2Proof

/-- One step: the next event happens to the block (20_memory.md R71). -/
def step (s : State) : Host.Outcome State Fault Refusal := runEvent s.nextEvent s.consume

/-- The host's next access writes the word to CMD, with reset released (10_state.md R36, 20_memory.md R74; log 12). -/
def State.withFetchWord (s : State) (nbits w : Nat) : State :=
  { s with inputs := .write 0x000 (tableWord nbits w) :: s.inputs, resetAsserted := false }

end Sys2Proof.Machine
end

