-- ==== Sys2Proof/Machine/HostNotation.lean ====
section
/-! DEFINITION. The host pseudo-instructions of 30_encoding.md R106, as the port accesses they expand to. None is a
command of the block. -/

namespace Sys2Proof.Machine

open Sys2Proof

/-- The port address of word i of F[r] (R62). -/
def fieldAddr (r : FReg) (i : Nat) : PortAddr := BitVec.ofNat 12 (0x100 + 8 * r.val + i)

/-- The port address of word i of X[r] (R63). -/
def extAddr (r : XReg) (i : Nat) : PortAddr := BitVec.ofNat 12 (0x200 + 16 * r.val + i)

/-- A command line. -/
def hostCommand (i : Instr) : List Event := [.write 0x000 (encode i)]

/-- `wr A, V`. -/
def wr (a : PortAddr) (v : Word) : List Event := [.write a v]

/-- `rd A`. -/
def rd (a : PortAddr) : List Event := [.read a]

/-- `ldarg V`. -/
def ldarg (v : Word) : List Event := [.write 0x001 v]

/-- `ldf fR, V`: words 0 to 5 in that order. -/
def ldf (r : FReg) (v : FieldElement) : List Event :=
  (List.range 6).map fun i => .write (fieldAddr r i) (wordAt v i)

/-- `ldx xR, V`: words 0 to 11 in that order. -/
def ldx (r : XReg) (v : ExtElement) : List Event :=
  (List.range 12).map fun i => .write (extAddr r i) (wordAt v i)

/-- `wait`, in the run whose STATUS poll finds BUSY = 1 k times and 0 after the completion step (R72). -/
def waitAfter (k : Nat) : List Event := List.replicate k (.read 0x002) ++ [.blockStep, .read 0x002]

/-- `stf fR`. -/
def stf (r : FReg) : List Event := (List.range 6).map fun i => .read (fieldAddr r i)

/-- `stx xR`. -/
def stx (r : XReg) : List Event := (List.range 12).map fun i => .read (extAddr r i)

end Sys2Proof.Machine
end

