-- ==== Sys2Proof/Safety.lean ====
section
/-! DEFINITION. The terms claims are stated in: a ready block, the registers a command reads, what a run ends in
(70_reset_and_hazards.md R283), the field laws (00_scope.md R15), and the invariants of the block's state. -/

namespace Sys2Proof.Machine

open Sys2Proof

/-- The block accepts the next legal command: no fault recorded and no command in flight (30_encoding.md R101). -/
abbrev State.ready (s : State) : Prop := s.err = false ∧ s.pending = none

/-- F[r] written by hand in a statement: exactly what a completing command changes (30_encoding.md R103). -/
def State.idleWithField (s : State) (r : FReg) (v : FieldElement) : State :=
  { s with pending := none, f := s.f.set r v, fWritten := s.fWritten.set r (BitVec.allOnes 6) }

/-- The same for X[r]. -/
def State.idleWithExt (s : State) (r : XReg) (v : ExtElement) : State :=
  { s with pending := none, x := s.x.set r v, xWritten := s.xWritten.set r (BitVec.allOnes 12) }

/-- `i`, delivered in `s`, is accepted: exec answers `s` with the slot filled, UNINIT recorded if the snapshot includes an
unmarked register, and nothing else changed. Whenever the command completes, from any later state that still holds the
slot, F[rd] is written, the slot empties, and nothing else changes (30_encoding.md R101 to R103): the value is one `good`
allows at that state's draw number, but with an unmarked register in the snapshot it is a draw that nothing constrains
(60_exceptions.md R258(a)). -/
def RunsToField (i : Instr) (s : State) (rd : FReg) (good : Nat → FieldElement → Prop) : Prop :=
  ∃ p : Pending, exec i s = .next { s with pending := some p, uninit := s.uninit || s.uninitRead i } ∧
    ∀ t : State, t.pending = some p →
      (s.uninitRead i = false → ∃ v, good t.draws v ∧ t.complete = t.idleWithField rd v) ∧
      (s.uninitRead i = true → t.complete = t.idleWithField rd (Config.uninitField t.draws))

/-- The same for a command whose destination is X[rd]. -/
def RunsToExt (i : Instr) (s : State) (rd : XReg) (good : Nat → ExtElement → Prop) : Prop :=
  ∃ p : Pending, exec i s = .next { s with pending := some p, uninit := s.uninit || s.uninitRead i } ∧
    ∀ t : State, t.pending = some p →
      (s.uninitRead i = false → ∃ v, good t.draws v ∧ t.complete = t.idleWithExt rd v) ∧
      (s.uninitRead i = true → t.complete = t.idleWithExt rd (Config.uninitExt t.draws))

/-- What the spec's NONCANON makes of an add-type command's value `v` (00_scope.md R6, 40_field_addsub.md R120):
`contract` for canonical inputs; else the pseudocode's value under datapath, and an unconstrained draw under any, but the
pseudocode's value also there where the command's rule settles it, canonical or not (R123; log 15). -/
def AddTypeValue (inputsCanonical settled : Prop) (contract datapath draw v : Nat) : Prop :=
  (inputsCanonical → v = contract) ∧
  (¬ inputsCanonical → settled ∨ Config.nonCanon = .datapath → v = datapath) ∧
  (¬ inputsCanonical → ¬ settled → Config.nonCanon = .any → v = draw)

/-- A field law (00_scope.md R15): the result `z` is canonical and congruent to its mathematical counterpart modulo P. -/
def FieldLaw (z : FieldElement) (counterpart : Int) : Prop :=
  z.toNat < primeP ∧ (z.toNat : Int) ≡ counterpart [ZMOD primeP]

/-- What a run shows at its end: STATUS, ERRINFO, ARG, F and X (70_reset_and_hazards.md R283). -/
structure Observation where
  status : Word
  errInfo : Word
  arg : Word
  f : Vector FieldElement 16
  x : Vector ExtElement 4
  deriving DecidableEq, Repr

/-- The observation of a state (R283). -/
def State.observe (s : State) : Observation := ⟨s.statusWord, s.errInfo, s.arg, s.f, s.x⟩

/-- An event that is a port access of the host (20_memory.md R60). -/
def Event.isPortAccess : Event → Bool
  | .read _ => true
  | .write _ _ => true
  | .blockStep => false
  | .assertReset => false
  | .releaseReset => false

/-- A run has ended: the host's last port access is behind it and STATUS reads BUSY = 0 (R283), whatever else is still
to come. R283 does not say what holds of a run that reset interrupts. DESIGN CHOICE (log 20): it ends like any other run,
by the state reset leaves it in, also while reset is still asserted. -/
def State.ended (s : State) : Bool := !s.inputs.any Event.isPortAccess && !s.busy

/-- A run that ended with ERR = 1 is a faulted run (R283). DESIGN CHOICE (log 20): a run whose fault a reset cleared is
none, since its final STATUS has ERR = 0. -/
def State.faultedRun (s : State) : Bool := s.ended && s.err

/-- What a run has come to: still going, or one of its distinct outcomes (70_reset_and_hazards.md R283, 60_exceptions.md
R258(a)). -/
inductive RunOutcome where
  | going
  | completed (o : Observation)
  | faulted (o : Observation)
  /-- the model fault UNINIT: the run has no end and no observation -/
  | uninit
  deriving DecidableEq, Repr

/-- The outcome of the run that has come to `s`: with UNINIT recorded the model-level error, which no later access
clears (R258(a), 93_implementation_defined.md I6; log 5); else that of R283. -/
def State.outcome (s : State) : RunOutcome :=
  if s.uninit then .uninit
  else if s.ended then (if s.err then .faulted s.observe else .completed s.observe)
  else .going

/-- The words 30_encoding.md calls illegal: a reserved opcode (R93), a non-zero ZERO field (R94), a non-zero register
field the opcode does not use (R95), or an extended-register index of 4 or more (R96). -/
abbrev IllegalWord (w : Word) : Prop :=
  (opField w).toNat = 0 ∨ 0x0F ≤ (opField w).toNat ∨ zeroField w ≠ 0 ∨
  ((opField w).toNat ∈ [0x02, 0x04, 0x05, 0x06, 0x08, 0x09, 0x0A, 0x0B, 0x0C] ∧ (rs2Field w).val ≠ 0) ∨
  ((opField w).toNat = 0x0B ∧ (rs1Field w).val ≠ 0) ∨
  ((opField w).toNat ∈ [0x0A, 0x0D, 0x0E] ∧ 4 ≤ (rs1Field w).val) ∨
  ((opField w).toNat ∈ [0x0D, 0x0E] ∧ (4 ≤ (rdField w).val ∨ 4 ≤ (rs2Field w).val))

/-- The register `w` writes holds the value it writes. -/
def State.holds (s : State) : RegWrite → Prop
  | .field r v => s.f[r] = v
  | .ext r v => s.x[r] = v

/-- A port address 20_memory.md R64 calls reserved: the three gaps of R61, word offsets 6 and 7 of a field register's
slot (R62), and word offsets 12 to 15 of an extended register's slot (R63). -/
abbrev ReservedAddr (a : PortAddr) : Prop :=
  (0x004 ≤ a.toNat ∧ a.toNat ≤ 0x0FF) ∨ (0x180 ≤ a.toNat ∧ a.toNat ≤ 0x1FF) ∨ 0x240 ≤ a.toNat ∨
  (0x100 ≤ a.toNat ∧ a.toNat ≤ 0x17F ∧ 6 ≤ a.toNat % 8) ∨
  (0x200 ≤ a.toNat ∧ a.toNat ≤ 0x23F ∧ 12 ≤ a.toNat % 16)

/-- The port address of word i of F[r] (R62) as a number. -/
abbrev IsFieldWordAddr (a : PortAddr) (r : FReg) (i : Fin 6) : Prop := a.toNat = 0x100 + 8 * r.val + i.val

/-- The port address of word i of X[r] (R63) as a number. -/
abbrev IsExtWordAddr (a : PortAddr) (r : XReg) (i : Fin 12) : Prop := a.toNat = 0x200 + 16 * r.val + i.val

/-- An address whose write needs BUSY = 0: ARG or a valid word of a register window (R66). -/
abbrev GuardedAddr (a : PortAddr) : Prop :=
  a.toNat = 1 ∨ (∃ r i, IsFieldWordAddr a r i) ∨ ∃ r i, IsExtWordAddr a r i

/-- The opcode of a command in flight (30_encoding.md R92). -/
def Job.opcode : Job → BitVec 5
  | .fadd _ _ _ => 0x01
  | .fadd1 _ _ => 0x02
  | .fsub _ _ _ _ => 0x03
  | .fneg _ _ => 0x04
  | .ftwice _ _ => 0x05
  | .fhalf _ _ => 0x06
  | .fmul _ _ _ => 0x07
  | .fsqr _ _ => 0x08
  | .fsqrn _ _ _ => 0x09
  | .fred _ _ => 0x0A
  | .fred32 _ _ _ => 0x0B
  | .fcanon _ _ => 0x0C
  | .xadd _ _ _ => 0x0D
  | .xsub _ _ _ => 0x0E

/-- The destination index of a command in flight. -/
def Job.dest : Job → Nat
  | .fadd rd _ _ => rd.val
  | .fadd1 rd _ => rd.val
  | .fsub rd _ _ _ => rd.val
  | .fneg rd _ => rd.val
  | .ftwice rd _ => rd.val
  | .fhalf rd _ => rd.val
  | .fmul rd _ _ => rd.val
  | .fsqr rd _ => rd.val
  | .fsqrn rd _ _ => rd.val
  | .fred rd _ => rd.val
  | .fred32 rd _ _ => rd.val
  | .fcanon rd _ => rd.val
  | .xadd rd _ _ => rd.val
  | .xsub rd _ _ => rd.val

/-- The count of an accepted FSQRN is at least 1 (41_multiply.md R163). -/
def Job.countPositive : Job → Bool
  | .fsqrn _ _ arg => decide (0 < sint32 arg)
  | .fadd _ _ _ | .fadd1 _ _ | .fsub _ _ _ _ | .fneg _ _ | .ftwice _ _ | .fhalf _ _ | .fmul _ _ _ | .fsqr _ _
  | .fred _ _ | .fred32 _ _ _ | .fcanon _ _ | .xadd _ _ _ | .xsub _ _ _ => true

/-- The slot holds a legal command word, and the command it names (10_state.md R38). -/
def Pending.wf (p : Pending) : Bool :=
  (match decode p.word with | .ok _ => true | .error _ => false) &&
  opField p.word == p.job.opcode && (rdField p.word).val == p.job.dest && p.job.countPositive

/-- ERRINFO fits ERRCODE (10_state.md R34, R35): 0 without a fault; for ILLEGAL a word that encodes no command; for
PRECOND an FSQRN word; for PORTBUSY the address of ARG or of a window word. -/
def errInfoFits : ErrCode → Word → Bool
  | .none, w => w == 0
  | .illegal, w => match decode w with | .ok _ => false | .error _ => true
  | .precond, w => match decode w with | .ok (.fsqrn _ _) => true | .ok _ => false | .error _ => false
  | .busyCmd, _ => true
  | .portBusy, w => decide (w.toNat < 4096) && match portTarget (w.setWidth 12) with
    | .arg => true
    | .fieldWord _ _ => true
    | .extWord _ _ => true
    | .cmd => false
    | .status => false
    | .errInfo => false
    | .reserved => false

/-- Every state the block can be in: ERR is 1 exactly when a code is recorded, ERRINFO fits the code, the slot holds a
legal command, UNINIT is recorded if the slot's command has no defined result, and while reset is asserted the state is
the one R43 gives, with UNINIT clear. -/
def State.inv (s : State) : Bool :=
  (s.err == (s.errCode != .none)) && errInfoFits s.errCode s.errInfo && s.pending.all Pending.wf &&
  s.pending.all (fun p => !p.uninit || s.uninit) &&
  (!s.resetAsserted || (s.pending.isNone && !s.err && s.fWritten == Vector.replicate 16 0 &&
    s.xWritten == Vector.replicate 4 0 && !s.argWritten && !s.uninit))

end Sys2Proof.Machine
end

