-- ==== Sys2Proof/Certificates/Slice0/Obligations.lean ====
section
/-! DEFINITION. What is claimed of the block, from the numbered rules of spec/. -/

open Sys2Proof Sys2Proof.Machine

set_option exponentiation.threshold 500

/-! Encoding (30_encoding.md) -/

/-- A few command words of 95_test_vectors.md section 3 decode to the commands it says they are. -/
def Obligations.SpecWordsDecode : Prop :=
  decode 0x09890000 = .ok (.fadd 3 1 2) ∧ decode 0x13200000 = .ok (.fadd1 6 4) ∧
  decode 0x1A190000 = .ok (.fsub 4 3 2) ∧ decode 0x3A118000 = .ok (.fmul 4 2 3) ∧
  decode 0x49080000 = .ok (.fsqrn 2 1) ∧ decode 0x57980000 = .ok (.fred 15 3) ∧
  decode 0x58800000 = .ok (.fred32 1) ∧ decode 0x61100000 = .ok (.fcanon 2 2) ∧
  decode 0x71188000 = .ok (.xsub 2 3 1)

/-- Every legal command is what its encoding decodes to (R90, R91, R105). -/
def Obligations.DecodeInvertsEncode : Prop :=
  ∀ i : Instr, i.wellFormed = true → decode (encode i) = .ok i

/-- A word that decodes is the encoding of the command it decodes to, and that command is legal (R97, R105). -/
def Obligations.EncodeInvertsDecode : Prop :=
  ∀ (w : Word) (i : Instr), decode w = .ok i → encode i = w ∧ i.wellFormed = true

/-- R92's table, as (opcode, match, mask): a word encodes a command exactly when it matches the command's row, and it
matches at most one row; the match value is the opcode shifted by 27. -/
def Obligations.MaskAndMatchDecideTheRow : Prop :=
  let rows : List (BitVec 5 × Word × Word) :=
    [(0x01, 0x08000000, 0xF8007FFF), (0x02, 0x10000000, 0xF807FFFF), (0x03, 0x18000000, 0xF8007FFF),
     (0x04, 0x20000000, 0xF807FFFF), (0x05, 0x28000000, 0xF807FFFF), (0x06, 0x30000000, 0xF807FFFF),
     (0x07, 0x38000000, 0xF8007FFF), (0x08, 0x40000000, 0xF807FFFF), (0x09, 0x48000000, 0xF807FFFF),
     (0x0A, 0x50000000, 0xF867FFFF), (0x0B, 0x58000000, 0xF87FFFFF), (0x0C, 0x60000000, 0xF807FFFF),
     (0x0D, 0x68000000, 0xFE667FFF), (0x0E, 0x70000000, 0xFE667FFF)]
  (∀ r ∈ rows, ∀ w : Word, w &&& r.2.2 = r.2.1 ↔ ∃ j, decode w = .ok j ∧ j.opcode = r.1) ∧
  (∀ w : Word, (∃ j, decode w = .ok j) ↔ ∃ r ∈ rows, w &&& r.2.2 = r.2.1) ∧
  (∀ r ∈ rows, ∀ q ∈ rows, ∀ w : Word, w &&& r.2.2 = r.2.1 → w &&& q.2.2 = q.2.1 → r = q) ∧
  (∀ r ∈ rows, r.2.1 = r.1.setWidth 32 <<< 27)

/-- R93 to R96: each kind of illegal word raises ILLEGAL with the word as its information, and does nothing else. -/
def Obligations.IllegalWordsRaiseIllegal : Prop :=
  ∀ (w : Word) (s : State), s.ready → IllegalWord w →
    deliverCommand w s = .next { s with err := true, errCode := .illegal, errInfo := w }

/-- R97, R100: every word is illegal or encodes a command, that of its opcode, and never both. -/
def Obligations.EveryWordHasOneVerdict : Prop :=
  ∀ w : Word, (IllegalWord w → ∀ i, decode w ≠ .ok i) ∧
    (¬ IllegalWord w → ∃ i, decode w = .ok i ∧ i.opcode = opField w)

/-! The fourteen commands: what each is accepted as and completes with. An operand is what the snapshot holds: the
register's contents once it is marked (`SnapshotOfMarkedRegister`), and before that a free value. A command
with such an operand completes too, with a draw that nothing constrains (log 5). A draw under NONCANON = any is a free value too (log 3). -/

/-- R121, R120: F[rd] := (a + b) mod P for canonical a, b; else the datapath's value or a draw. -/
def Obligations.FaddAddsModP : Prop :=
  ∀ (rd rs1 rs2 : FReg) (s : State), s.ready →
    let a := (s.fieldOperand rs1).toNat
    let b := (s.fieldOperand rs2).toNat
    RunsToField (.fadd rd rs1 rs2) s rd fun n v =>
      AddTypeValue (a < primeP ∧ b < primeP) False ((a + b) % primeP)
        (if a + b ≥ 2 ^ 192 ∨ (a + b) % 2 ^ 192 ≥ primeP then (a + b - primeP) % 2 ^ 192 else a + b)
        (Config.freeField n).toNat v.toNat

/-- R122, R120: F[rd] := (a + 1) mod P for canonical a; else the datapath's value or a draw. -/
def Obligations.Fadd1AddsOneModP : Prop :=
  ∀ (rd rs1 : FReg) (s : State), s.ready →
    let a := (s.fieldOperand rs1).toNat
    RunsToField (.fadd1 rd rs1) s rd fun n v =>
      AddTypeValue (a < primeP) False ((a + 1) % primeP)
        (if a + 1 ≥ 2 ^ 192 ∨ (a + 1) % 2 ^ 192 ≥ primeP then (a + 1 - primeP) % 2 ^ 192 else a + 1)
        (Config.freeField n).toNat v.toNat

/-- R123, R120: F[rd] := (a − b) mod P for canonical a, b; else the datapath's value or a draw, but 0 for
rd = rs1 = rs2, canonical or not and under any NONCANON. That R123's corner case holds under any too is read from the spec
(log 15). -/
def Obligations.FsubSubtractsModP : Prop :=
  ∀ (rd rs1 rs2 : FReg) (s : State), s.ready →
    let a := (s.fieldOperand rs1).toNat
    let b := (s.fieldOperand rs2).toNat
    RunsToField (.fsub rd rs1 rs2) s rd fun n v =>
      AddTypeValue (a < primeP ∧ b < primeP) (rd = rs1 ∧ rs1 = rs2) (((a : Int) - b) % primeP).toNat
        (if a < b then (((a : Int) - b + primeP) % 2 ^ 192).toNat else a - b)
        (Config.freeField n).toNat v.toNat

/-- R124, R120: F[rd] := (−a) mod P for canonical a; else the datapath's value or a draw. -/
def Obligations.FnegNegatesModP : Prop :=
  ∀ (rd rs1 : FReg) (s : State), s.ready →
    let a := (s.fieldOperand rs1).toNat
    RunsToField (.fneg rd rs1) s rd fun n v =>
      AddTypeValue (a < primeP) False ((-(a : Int)) % primeP).toNat
        (if a = 0 then 0 else (((primeP : Int) - a) % 2 ^ 192).toNat)
        (Config.freeField n).toNat v.toNat

/-- R125, R120: F[rd] := 2a mod P for canonical a; else the datapath's value or a draw. -/
def Obligations.FtwiceDoublesModP : Prop :=
  ∀ (rd rs1 : FReg) (s : State), s.ready →
    let a := (s.fieldOperand rs1).toNat
    RunsToField (.ftwice rd rs1) s rd fun n v =>
      AddTypeValue (a < primeP) False (2 * a % primeP)
        (if 2 * a ≥ 2 ^ 192 ∨ 2 * a % 2 ^ 192 ≥ primeP then (2 * a - primeP) % 2 ^ 192 else 2 * a)
        (Config.freeField n).toNat v.toNat

/-- R126, R120: for a canonical input the canonical number whose double is congruent to it; else the datapath's value or
a draw. That the draw also covers an even non-canonical input, which R126's corner case calls canonical always, is the
model's choice (log 15). -/
def Obligations.FhalfHalvesModP : Prop :=
  ∀ (rd rs1 : FReg) (s : State), s.ready →
    let a := (s.fieldOperand rs1).toNat
    RunsToField (.fhalf rd rs1) s rd fun n v =>
      AddTypeValue (a < primeP) False (a * ((primeP + 1) / 2) % primeP)
        (if a % 2 = 0 then a / 2 else (a + primeP) / 2)
        (Config.freeField n).toNat v.toNat

/-- R161: for every 192-bit input. -/
def Obligations.FmulMultipliesModP : Prop :=
  ∀ (rd rs1 rs2 : FReg) (s : State), s.ready →
    RunsToField (.fmul rd rs1 rs2) s rd fun _ v =>
      v.toNat = (s.fieldOperand rs1).toNat * (s.fieldOperand rs2).toNat % primeP

/-- R162: for every 192-bit input. -/
def Obligations.FsqrSquaresModP : Prop :=
  ∀ (rd rs1 : FReg) (s : State), s.ready →
    RunsToField (.fsqr rd rs1) s rd fun _ v => v.toNat = (s.fieldOperand rs1).toNat ^ 2 % primeP

/-- R163: for every 192-bit input and every count n ≥ 1. -/
def Obligations.FsqrnSquaresRepeatedly : Prop :=
  ∀ (rd rs1 : FReg) (s : State), s.ready → 0 < sint32 s.argOperand →
    RunsToField (.fsqrn rd rs1) s rd fun _ v =>
      v.toNat = (s.fieldOperand rs1).toNat ^ (2 ^ (sint32 s.argOperand).toNat) % primeP

/-- R186: for every 384-bit input. -/
def Obligations.FredReducesModP : Prop :=
  ∀ (rd : FReg) (rs1 : Fin 16) (r : XReg) (s : State), s.ready → extIndex rs1 = some r →
    RunsToField (.fred rd rs1) s rd fun _ v => v.toNat = (s.extOperand r).toNat % primeP

/-- R187: for every carry word and every 192-bit input. -/
def Obligations.Fred32FoldsCarryModP : Prop :=
  ∀ (rd : FReg) (s : State), s.ready →
    RunsToField (.fred32 rd) s rd fun _ v =>
      v.toNat = (s.argOperand.toNat * 2 ^ 192 + (s.fieldOperand rd).toNat) % primeP

/-- R211: for every 192-bit input. -/
def Obligations.FcanonReducesModP : Prop :=
  ∀ (rd rs1 : FReg) (s : State), s.ready →
    RunsToField (.fcanon rd rs1) s rd fun _ v => v.toNat = (s.fieldOperand rs1).toNat % primeP

/-- R212, R210: X[rd] := (a + b) mod PExt for a, b below PExt; else the datapath's value or a draw. -/
def Obligations.XaddAddsModPExt : Prop :=
  ∀ (rd rs1 rs2 : Fin 16) (d r1 r2 : XReg) (s : State), s.ready →
    extIndex rd = some d → extIndex rs1 = some r1 → extIndex rs2 = some r2 →
    let a := (s.extOperand r1).toNat
    let b := (s.extOperand r2).toNat
    RunsToExt (.xadd rd rs1 rs2) s d fun n v =>
      AddTypeValue (a < primePExt ∧ b < primePExt) False ((a + b) % primePExt)
        (if a + b ≥ 2 ^ 384 ∨ (a + b) % 2 ^ 384 ≥ primePExt then (a + b - primePExt) % 2 ^ 384 else a + b)
        (Config.freeExt n).toNat v.toNat

/-- R213, R210: X[rd] := (a − b) mod PExt for a, b below PExt; else the datapath's value or a draw. That the draw also
covers equal operands at or above PExt, where R213's corner cases say 0, is the model's choice (log 15). -/
def Obligations.XsubSubtractsModPExt : Prop :=
  ∀ (rd rs1 rs2 : Fin 16) (d r1 r2 : XReg) (s : State), s.ready →
    extIndex rd = some d → extIndex rs1 = some r1 → extIndex rs2 = some r2 →
    let a := (s.extOperand r1).toNat
    let b := (s.extOperand r2).toNat
    RunsToExt (.xsub rd rs1 rs2) s d fun n v =>
      AddTypeValue (a < primePExt ∧ b < primePExt) False (((a : Int) - b) % primePExt).toNat
        (if a < b then (((a : Int) - b + primePExt) % 2 ^ 384).toNat else a - b)
        (Config.freeExt n).toNat v.toNat

/-! Acceptance and faults (30_encoding.md R101, 60_exceptions.md) -/

/-- The model's choice (log 13): exec of a term the decoder never builds, one with an extended index of 4 or more, raises
ILLEGAL, the verdict R96 gives the word. -/
def Obligations.IllFormedCommandRaisesIllegal : Prop :=
  ∀ (i : Instr) (s : State), s.ready → i.wellFormed = false →
    exec i s = .next { s with err := true, errCode := .illegal, errInfo := encode i }

/-- R243: FSQRN with sint32(ARG) ≤ 0 raises PRECOND and does nothing else, and no other command raises it. An ARG not
written since reset is a free value, the model's choice (log 5). -/
def Obligations.FsqrnCountRaisesPrecond : Prop :=
  (∀ (rd rs1 : FReg) (s : State), s.ready → sint32 s.argOperand ≤ 0 →
    exec (.fsqrn rd rs1) s = .next { s with err := true, errCode := .precond, errInfo := encode (.fsqrn rd rs1) }) ∧
  (∀ (i : Instr) (s t : State), s.errCode ≠ .precond → exec i s = .next t → t.errCode = .precond →
    ∃ rd rs1, i = .fsqrn rd rs1 ∧ sint32 s.argOperand ≤ 0)

/-- R248: with ERR = 1 a command word does nothing at all, legal or not, busy or not. -/
def Obligations.CommandIgnoredWhileErr : Prop :=
  ∀ (w : Word) (s : State), s.err = true → deliverCommand w s = .next s

/-- R244: with BUSY = 1 and ERR = 0 a command word, legal or not, raises BUSYCMD; the command in flight stays in the
slot and completes as it would have. -/
def Obligations.CommandWhileBusyRaisesBusyCmd : Prop :=
  ∀ (w : Word) (p : Pending) (s : State), s.err = false → s.pending = some p →
    ∃ t, deliverCommand w s = .next t ∧ t = { s with err := true, errCode := .busyCmd, errInfo := w } ∧
      t.complete = { s.complete with err := true, errCode := .busyCmd, errInfo := w }

/-- R245: with BUSY = 1 a write to ARG or to a window word is dropped and raises PORTBUSY with the port address (with
ERR = 1 already, it is dropped and nothing is recorded); the command in flight completes with its snapshot. -/
def Obligations.PortWriteWhileBusyRaisesPortBusy : Prop :=
  ∀ (a : PortAddr) (v : Word) (p : Pending) (s : State), s.pending = some p → GuardedAddr a →
    (s.err = true → hostWrite a v s = .next s) ∧
    (s.err = false → ∃ t, hostWrite a v s = .next t ∧
      t = { s with err := true, errCode := .portBusy, errInfo := BitVec.ofNat 32 a.toNat } ∧
      t.complete = { s.complete with err := true, errCode := .portBusy, errInfo := BitVec.ofNat 32 a.toNat })

/-- R241: the first fault is recorded, a later one changes nothing. -/
def Obligations.FirstFaultIsKept : Prop :=
  ∀ (s : State) (code : ErrCode) (info : Word),
    (s.err = false → s.raiseFault code info = { s with err := true, errCode := code, errInfo := info }) ∧
    (s.err = true → s.raiseFault code info = s)

/-- R241, R248, R250: over every step but a reset, a recorded fault stays as it is and no command enters the slot. -/
def Obligations.FaultIsStickyUntilReset : Prop :=
  ∀ s t : State, s.err = true → s.nextEvent ≠ .assertReset → step s = .next t →
    t.err = true ∧ t.errCode = s.errCode ∧ t.errInfo = s.errInfo ∧ (t.pending = s.pending ∨ t.pending = none)

/-- The frame of every command: its acceptance changes nothing but the slot, the fault record and UNINIT, and
a command in flight is never replaced (R101, R103, R247). UNINIT as a field is the model's (log 5). -/
def Obligations.ExecChangesOnlySlotAndFault : Prop :=
  ∀ (i : Instr) (s t : State), exec i s = .next t →
    t = { s with pending := t.pending, err := t.err, errCode := t.errCode, errInfo := t.errInfo, uninit := t.uninit } ∧
    (∀ p, s.pending = some p → t.pending = some p) ∧
    (t.pending ≠ s.pending → t.err = s.err ∧ t.errCode = s.errCode ∧ t.errInfo = s.errInfo) ∧
    (t.uninit ≠ s.uninit → t.pending ≠ s.pending)

/-! The whole machine -/

/-- R240: no state and no input stops the block. That an operand not written since reset is no stop is the model's
choice (log 5). -/
def Obligations.EveryStepAnswersNext : Prop :=
  (∀ (i : Instr) (s : State), ∃ t, exec i s = .next t) ∧ ∀ s : State, ∃ t, step s = .next t

/-- R36, R66, R71, R101, R103, R270, R273: what a step does by the event it meets, in the state with the event consumed.
A write of a word to CMD that decodes to a command is that command's meaning; any write is the host write (to CMD the
delivery of the word), and is nothing while reset is asserted; the block's completion step, also taken with no input
left, writes the result of the command in flight and nothing else; reset released changes nothing but the level. The
list of inputs, the reply, the draw number and the level are the model's (log 1, log 2, log 7, log 10, log 11, log 12). -/
def Obligations.StepRunsTheDeliveredCommand : Prop :=
  (∀ (s : State) (w : Word) (rest : List Event) (i : Instr), s.inputs = .write 0x000 w :: rest →
    s.resetAsserted = false → decode w = .ok i →
    step s = exec i { s with inputs := rest, reply := none, draws := s.draws + 1 }) ∧
  (∀ (s : State) (nbits w : Nat) (i : Instr), decodeTableWord nbits w = some i →
    step (s.withFetchWord nbits w) = exec i { s with resetAsserted := false, reply := none, draws := s.draws + 1 }) ∧
  (∀ (s : State) (a : PortAddr) (v : Word) (rest : List Event), s.inputs = .write a v :: rest →
    (s.resetAsserted = false →
      step s = hostWrite a v { s with inputs := rest, reply := none, draws := s.draws + 1 }) ∧
    (s.resetAsserted = true → step s = .next { s with inputs := rest, reply := none, draws := s.draws + 1 })) ∧
  (∀ (s : State) (w : Word), hostWrite 0x000 w s = deliverCommand w s) ∧
  (∀ (s : State) (rest : List Event), s.inputs = .blockStep :: rest ∨ s.inputs = [] ∧ rest = [] →
    step s = .next ({ s with inputs := rest, reply := none, draws := s.draws + 1 } : State).complete) ∧
  (∀ s : State, (s.pending = none → s.complete = s) ∧ ∀ p, s.pending = some p →
    (∀ r v, p.result s.draws = .field r v → s.complete = s.idleWithField r v) ∧
    (∀ r v, p.result s.draws = .ext r v → s.complete = s.idleWithExt r v)) ∧
  (∀ (s : State) (rest : List Event), s.inputs = .releaseReset :: rest →
    step s = .next { s with inputs := rest, reply := none, draws := s.draws + 1, resetAsserted := false })

/-- The reset state meets the invariant. -/
def Obligations.ResetMeetsTheInvariant : Prop := State.reset.inv = true

/-- R33 to R35, R38, R163, R270: from every state that meets the invariant, a step gives one that meets it. The field
UNINIT and the reset level are the model's (log 5, log 10). -/
def Obligations.StepKeepsTheInvariant : Prop :=
  ∀ s t : State, s.inv = true → step s = .next t → t.inv = true

/-- R30 to R32, R65, R66, R103: but for a reset, a field or extended register changes only by a host write of one of its
own words while BUSY = 0 or by the completion of a command with that destination, and ARG only by a host write of it
while BUSY = 0. -/
def Obligations.RegistersChangeOnlyByTheirWriters : Prop :=
  ∀ s t : State, s.nextEvent ≠ .assertReset → step s = .next t →
    (∀ r : FReg, t.f[r] ≠ s.f[r] →
      (∃ a i v, IsFieldWordAddr a r i ∧ s.nextEvent = .write a v ∧ s.pending = none ∧ s.resetAsserted = false) ∨
      (s.nextEvent = .blockStep ∧ ∃ p n v, s.pending = some p ∧ p.result n = .field r v)) ∧
    (∀ r : XReg, t.x[r] ≠ s.x[r] →
      (∃ a i v, IsExtWordAddr a r i ∧ s.nextEvent = .write a v ∧ s.pending = none ∧ s.resetAsserted = false) ∨
      (s.nextEvent = .blockStep ∧ ∃ p n v, s.pending = some p ∧ p.result n = .ext r v)) ∧
    (t.arg ≠ s.arg → ∃ v, s.nextEvent = .write 0x001 v ∧ s.pending = none ∧ s.resetAsserted = false)

/-- R72, R103, R282: whatever port accesses are still to come, an accepted command completes with its result after
finitely many steps unless a reset comes first. That a step with no input left takes the completion is the model's choice
(log 2). -/
def Obligations.AcceptedCommandCompletes : Prop :=
  ∀ (s : State) (p : Pending), s.pending = some p → Event.assertReset ∉ s.inputs →
    ∃ (k n : Nat) (t : State), k ≤ s.inputs.length + 1 ∧ Host.Core.run Sys2Proof.core k s = .next t ∧
      t.pending = none ∧ t.holds (p.result n)

/-- R102: two states that hold the same slot complete with the same register write, whatever else differs; under
NONCANON = any, and for a command that read a register not written since reset, when their draw numbers agree (log 5). -/
def Obligations.ResultDependsOnTheSnapshotOnly : Prop :=
  ∀ (s t : State) (p : Pending), s.pending = some p → t.pending = some p →
    (Config.nonCanon = .datapath ∧ p.uninit = false ∨ s.draws = t.draws) →
    ∃ w, s.complete = { s with pending := none }.writeBack w ∧ t.complete = { t with pending := none }.writeBack w

/-! The host port (20_memory.md) -/

/-- R62, R66, R42: while BUSY = 0, whatever ERR is, a write of word i of F[r] lands: that word is the value written, the
other five words, every other register and all else are unchanged; the word counts as written since reset and no other
does, so that F[r] is marked exactly when its other words had all been written. The bits per word are the model's
(log 6). -/
def Obligations.FieldWordWriteLands : Prop :=
  ∀ (a : PortAddr) (r : FReg) (i : Fin 6) (v : Word) (s : State), s.pending = none → IsFieldWordAddr a r i →
    ∃ t, hostWrite a v s = .next t ∧ wordAt t.f[r] i = v ∧
      (∀ j : Fin 6, j ≠ i → wordAt t.f[r] j = wordAt s.f[r] j) ∧ (∀ q : FReg, q ≠ r → t.f[q] = s.f[q]) ∧
      t = { s with f := t.f, fWritten := t.fWritten } ∧
      (∀ j : Fin 6, t.fWritten[r].getLsbD j = (s.fWritten[r].getLsbD j || decide (j = i))) ∧
      (∀ q : FReg, q ≠ r → t.fWritten[q] = s.fWritten[q]) ∧
      (t.fMarked r = true ↔ ∀ j : Fin 6, j ≠ i → s.fWritten[r].getLsbD j = true)

/-- R63, R66, R42: the same for word i of X[r] (log 6). -/
def Obligations.ExtWordWriteLands : Prop :=
  ∀ (a : PortAddr) (r : XReg) (i : Fin 12) (v : Word) (s : State), s.pending = none → IsExtWordAddr a r i →
    ∃ t, hostWrite a v s = .next t ∧ wordAt t.x[r] i = v ∧
      (∀ j : Fin 12, j ≠ i → wordAt t.x[r] j = wordAt s.x[r] j) ∧ (∀ q : XReg, q ≠ r → t.x[q] = s.x[q]) ∧
      t = { s with x := t.x, xWritten := t.xWritten } ∧
      (∀ j : Fin 12, t.xWritten[r].getLsbD j = (s.xWritten[r].getLsbD j || decide (j = i))) ∧
      (∀ q : XReg, q ≠ r → t.xWritten[q] = s.xWritten[q]) ∧
      (t.xMarked r = true ↔ ∀ j : Fin 12, j ≠ i → s.xWritten[r].getLsbD j = true)

/-- R62, R63, R65: while BUSY = 0 and reset is not asserted, a read of a window word of a marked register returns that
word. -/
def Obligations.IdleWindowReadReturnsTheWord : Prop :=
  ∀ (a : PortAddr) (s : State), s.pending = none → s.resetAsserted = false →
    (∀ r i, IsFieldWordAddr a r i → s.fMarked r = true → s.hostRead a = wordAt s.f[r] i) ∧
    (∀ r i, IsExtWordAddr a r i → s.xMarked r = true → s.hostRead a = wordAt s.x[r] i)

/-- R65, R270: a read of a window word while BUSY = 1, or of a word of an unmarked register, or of anything while reset
is asserted, returns the draw of that step, whatever it is. -/
def Obligations.UnspecifiedReadsAreDraws : Prop :=
  ∀ (a : PortAddr) (s : State),
    (s.resetAsserted = true → s.hostRead a = Config.freeWord s.draws) ∧
    (∀ r i, IsFieldWordAddr a r i → s.pending ≠ none ∨ s.fMarked r = false → s.hostRead a = Config.freeWord s.draws) ∧
    (∀ r i, IsExtWordAddr a r i → s.pending ≠ none ∨ s.xMarked r = false → s.hostRead a = Config.freeWord s.draws) ∧
    (a.toNat = 1 → s.argWritten = false → s.hostRead a = Config.freeWord s.draws)

/-- R32, R35, R36, R65: reads of CMD, ARG, STATUS and ERRINFO with reset not asserted, BUSY or not. -/
def Obligations.ControlReads : Prop :=
  ∀ s : State, s.resetAsserted = false →
    s.hostRead 0x000 = 0 ∧ (s.argWritten = true → s.hostRead 0x001 = s.arg) ∧
    s.hostRead 0x002 = s.statusWord ∧ s.hostRead 0x003 = s.errInfo

/-- R64: reserved addresses read 0 and ignore writes, also while BUSY = 1, as do writes to STATUS and ERRINFO and reads
of CMD. -/
def Obligations.ReservedAddressesAreInert : Prop :=
  ∀ (a : PortAddr) (v : Word) (s : State),
    (ReservedAddr a → hostWrite a v s = .next s ∧ (s.resetAsserted = false → s.hostRead a = 0)) ∧
    (a.toNat = 2 ∨ a.toNat = 3 → hostWrite a v s = .next s) ∧
    (a.toNat = 0 → s.resetAsserted = false → s.hostRead a = 0)

/-- R65, R70: a step that reads changes nothing of the block; only the reply, the inputs and the draw number move. -/
def Obligations.ReadStepChangesNothing : Prop :=
  ∀ (s : State) (a : PortAddr) (rest : List Event), s.inputs = .read a :: rest →
    ∃ v, step s = .next { s with inputs := rest, reply := some v, draws := s.draws + 1 } ∧ v = s.consume.hostRead a

/-- R33, R34: BUSY is bit 0, ERR bit 1, ERRCODE bits 7:4, and bits 3:2 and 31:8 read 0; the numbers of the five codes. -/
def Obligations.StatusLayout : Prop :=
  (∀ s : State, s.statusWord.getLsbD 0 = s.pending.isSome ∧ s.statusWord.getLsbD 1 = s.err ∧
    s.statusWord.extractLsb' 2 2 = 0 ∧ s.statusWord.extractLsb' 4 4 = s.errCode.bits ∧
    s.statusWord.extractLsb' 8 24 = 0) ∧
  ErrCode.none.bits = 0 ∧ ErrCode.illegal.bits = 1 ∧ ErrCode.precond.bits = 2 ∧ ErrCode.busyCmd.bits = 3 ∧
  ErrCode.portBusy.bits = 4

/-- R32, R66: while BUSY = 0, whatever ERR is, a write of ARG lands and changes nothing else; FSQRN and FRED32 then
take it. -/
def Obligations.ArgWriteLands : Prop :=
  ∀ (v : Word) (s : State), s.pending = none →
    ∃ t, hostWrite 0x001 v s = .next t ∧ t = { s with arg := v, argWritten := true } ∧ t.argOperand = v

/-- R42, R62, R106: `ldf` and `ldx`, run on an idle block, load the whole register, mark it, and leave every other
register as it was. -/
def Obligations.HostLoadsARegister : Prop :=
  (∀ (r : FReg) (v : FieldElement) (rest : List Event) (s : State), s.pending = none → s.resetAsserted = false →
    s.inputs = ldf r v ++ rest →
    ∃ t : State, Host.Core.run Sys2Proof.core 6 s = .next t ∧ t.f[r] = v ∧ t.fMarked r = true ∧ t.inputs = rest ∧
      (∀ q : FReg, q ≠ r → t.f[q] = s.f[q]) ∧ t.x = s.x ∧ t.arg = s.arg ∧ t.pending = none) ∧
  (∀ (r : XReg) (v : ExtElement) (rest : List Event) (s : State), s.pending = none → s.resetAsserted = false →
    s.inputs = ldx r v ++ rest →
    ∃ t : State, Host.Core.run Sys2Proof.core 12 s = .next t ∧ t.x[r] = v ∧ t.xMarked r = true ∧ t.inputs = rest ∧
      (∀ q : XReg, q ≠ r → t.x[q] = s.x[q]) ∧ t.f = s.f ∧ t.arg = s.arg ∧ t.pending = none)

/-! Reset (70_reset_and_hazards.md) and the written-since-reset marks (10_state.md R42) -/

/-- R43, R273: what the spec gives of the state after reset, and UNINIT clear (the model's field, log 5). -/
def Obligations.ResetValues : Prop :=
  State.reset.statusWord = 0 ∧ State.reset.errInfo = 0 ∧ State.reset.pending = none ∧
  State.reset.resetAsserted = false ∧ (∀ r : FReg, State.reset.fMarked r = false) ∧
  (∀ r : XReg, State.reset.xMarked r = false) ∧ State.reset.argWritten = false ∧ State.reset.uninit = false

/-- R270, R271, R273: asserting reset, at any time, clears STATUS, ERRINFO, the slot and the marks; releasing it leaves
the block ready. That asserting and releasing are events of the model is its choice (log 10), and
so is the field UNINIT, which it clears (log 5). -/
def Obligations.AssertResetClears : Prop :=
  ∀ (s : State) (rest : List Event), s.inputs = .assertReset :: rest →
    ∃ t, step s = .next t ∧ t.statusWord = 0 ∧ t.errInfo = 0 ∧ t.pending = none ∧ t.resetAsserted = true ∧
      (∀ r : FReg, t.fMarked r = false) ∧ (∀ r : XReg, t.xMarked r = false) ∧ t.argWritten = false ∧ t.uninit = false ∧
      t.releaseReset.ready ∧ t.releaseReset.resetAsserted = false

/-- R270: while reset is asserted, port accesses change nothing of the block (the level of the reset input is the model's
field, log 10). -/
def Obligations.PortIsDeadDuringReset : Prop :=
  ∀ s t : State, s.resetAsserted = true → (∃ a v, s.nextEvent = .write a v) ∨ (∃ a, s.nextEvent = .read a) →
    step s = .next t → t = { s.consume with reply := t.reply }

/-- R42: over every step but a reset a mark is never cleared, and it is set only by the host's write of the register's last
missing word, with BUSY = 0 and reset not asserted, or by the completion of a command with that destination, which always
sets it; ARG's only by a host write of it. The bits per word are the model's (log 6). -/
def Obligations.MarksOnlyClearedByReset : Prop :=
  (∀ s t : State, s.nextEvent ≠ .assertReset → step s = .next t →
    (∀ r : FReg, s.fMarked r = true → t.fMarked r = true) ∧ (∀ r : XReg, s.xMarked r = true → t.xMarked r = true) ∧
    (s.argWritten = true → t.argWritten = true) ∧
    (∀ r : FReg, s.fMarked r = false → t.fMarked r = true →
      (∃ a i v, IsFieldWordAddr a r i ∧ s.nextEvent = .write a v ∧ s.pending = none ∧ s.resetAsserted = false ∧
        ∀ j : Fin 6, j ≠ i → s.fWritten[r].getLsbD j = true) ∨
      (s.nextEvent = .blockStep ∧ ∃ p n v, s.pending = some p ∧ p.result n = .field r v)) ∧
    (∀ r : XReg, s.xMarked r = false → t.xMarked r = true →
      (∃ a i v, IsExtWordAddr a r i ∧ s.nextEvent = .write a v ∧ s.pending = none ∧ s.resetAsserted = false ∧
        ∀ j : Fin 12, j ≠ i → s.xWritten[r].getLsbD j = true) ∨
      (s.nextEvent = .blockStep ∧ ∃ p n v, s.pending = some p ∧ p.result n = .ext r v)) ∧
    (s.argWritten = false → t.argWritten = true →
      ∃ v, s.nextEvent = .write 0x001 v ∧ s.pending = none ∧ s.resetAsserted = false)) ∧
  (∀ (s : State) (p : Pending) (n : Nat), s.pending = some p →
    (∀ r v, p.result n = .field r v → s.complete.fMarked r = true) ∧
    (∀ r v, p.result n = .ext r v → s.complete.xMarked r = true))

/-- R258(a), R42: UNINIT is recorded exactly when a command is accepted whose snapshot includes a register whose mark is
clear: a source register, RD for FRED32, ARG for FSQRN and FRED32; over every step but a reset it stays; and while it is
recorded the outcome of the run is UNINIT, whatever else happens. That it is recorded in a field, while the command
completes with a draw, is the model's choice (log 5). -/
def Obligations.UninitRecordsAnUnmarkedOperand : Prop :=
  (∀ (s : State) (d a b : FReg),
    (∀ i ∈ [Instr.fadd d a b, .fsub d a b, .fmul d a b],
      s.uninitRead i = true ↔ s.fMarked a = false ∨ s.fMarked b = false) ∧
    (∀ i ∈ [Instr.fadd1 d a, .fneg d a, .ftwice d a, .fhalf d a, .fsqr d a, .fcanon d a],
      s.uninitRead i = true ↔ s.fMarked a = false) ∧
    (s.uninitRead (.fsqrn d a) = true ↔ s.fMarked a = false ∨ s.argWritten = false) ∧
    (s.uninitRead (.fred32 d) = true ↔ s.fMarked d = false ∨ s.argWritten = false)) ∧
  (∀ (s : State) (d a b : Fin 16) (q r : XReg), extIndex a = some q → extIndex b = some r →
    (s.uninitRead (.fred d a) = true ↔ s.xMarked q = false) ∧
    (∀ i ∈ [Instr.xadd d a b, .xsub d a b], s.uninitRead i = true ↔ s.xMarked q = false ∨ s.xMarked r = false)) ∧
  (∀ (i : Instr) (s t : State), exec i s = .next t →
    (t.uninit = true ↔ s.uninit = true ∨ s.pending = none ∧ t.pending ≠ none ∧ s.uninitRead i = true)) ∧
  (∀ s t : State, s.nextEvent ≠ .assertReset → step s = .next t →
    (t.uninit = true ↔ s.uninit = true ∨ s.pending = none ∧ t.pending ≠ none ∧
      ∃ w i, s.nextEvent = .write 0x000 w ∧ decode w = .ok i ∧ s.uninitRead i = true)) ∧
  (∀ s : State, s.outcome = .uninit ↔ s.uninit = true)

/-- R102, R42: the snapshot of a marked register is the register's contents. -/
def Obligations.SnapshotOfMarkedRegister : Prop :=
  ∀ s : State, (∀ r : FReg, s.fMarked r = true → s.fieldOperand r = s.f[r]) ∧
    (∀ r : XReg, s.xMarked r = true → s.extOperand r = s.x[r]) ∧ (s.argWritten = true → s.argOperand = s.arg)

/-! Arithmetic (00_scope.md, 40_field_addsub.md, 42_reduce.md, 43_canon_ext.md) -/

/-- R37: the constants' words, and PExt = P². -/
def Obligations.ConstantWords : Prop :=
  primeP = val [0xFFFFFFFF, 0xFFFFFFFF, 0xFFFFFFFE, 0xFFFFFFFF, 0xFFFFFFFF, 0xFFFFFFFF] ∧
  primePExt = val [0x00000001, 0x00000000, 0x00000002, 0x00000000, 0x00000001, 0x00000000,
    0xFFFFFFFE, 0xFFFFFFFF, 0xFFFFFFFD, 0xFFFFFFFF, 0xFFFFFFFF, 0xFFFFFFFF] ∧
  primeP = 2 ^ 192 - 2 ^ 64 - 1 ∧ primePExt = primeP ^ 2

/-- R182: stage 1 keeps the value modulo P, and its carry is 0 to 3, with 3 reached. -/
def Obligations.FoldKeepsTheResidue : Prop :=
  (∀ xx : ExtElement, ((fold xx).1 * 2 ^ 192 + (fold xx).2.toNat) % primeP = xx.toNat % primeP ∧
    (fold xx).1 * 2 ^ 192 + (fold xx).2.toNat ≤ 4 * (2 ^ 192 - 1) ∧ (fold xx).1 ≤ 3) ∧
  fold (BitVec.allOnes 384) = (3, 0x0000000000000000FFFFFFFFFFFFFFFEFFFFFFFFFFFFFFFD)

/-- R183: stage 2a is exactly z + x + x·2^64. -/
def Obligations.CarryFoldIsExact : Prop :=
  ∀ (x : Nat) (z : FieldElement), x < 2 ^ 32 →
    carryFold x z = z.toNat + x + x * 2 ^ 64 ∧ carryFold x z < 2 ^ 192 + 2 ^ 97

/-- R184, R12: stage 2b is SubPOnce192, and below 2^192 + 2^97 it is the remainder modulo P. -/
def Obligations.CorrectIsOneSubtraction : Prop :=
  (∀ v : Nat, v < 2 ^ 193 → correct v = subPOnce192 v) ∧
  (∀ v : Nat, v < 2 ^ 192 + 2 ^ 97 → (correct v).toNat = v % primeP)

/-- R185: Reduce is the two stages in a row, and the remainder modulo P, for every 384-bit value. -/
def Obligations.ReduceIsModP : Prop :=
  ∀ xx : ExtElement, reduce xx = correct (carryFold (fold xx).1 (fold xx).2) ∧
    (reduce xx).toNat = xx.toNat % primeP ∧ canonical (reduce xx) = true

/-- R15: for canonical inputs each result is canonical and congruent to its mathematical counterpart modulo P; Half's
counterpart is x times the inverse of 2, which (P + 1)/2 is. -/
def Obligations.FieldLawsOnCanonicalInputs : Prop :=
  (∀ (x y : FieldElement) (one : Bool) (arg : Word) (n : Nat), canonical x = true → canonical y = true →
    FieldLaw (faddResult x y n) (x.toNat + y.toNat) ∧ FieldLaw (fadd1Result x n) (x.toNat + 1) ∧
    FieldLaw (fsubResult one x y n) (x.toNat - y.toNat) ∧ FieldLaw (fnegResult x n) (-x.toNat) ∧
    FieldLaw (ftwiceResult x n) (2 * x.toNat) ∧ FieldLaw (fhalfResult x n) (x.toNat * ((primeP + 1) / 2 : Nat)) ∧
    FieldLaw (fmulResult x y) (x.toNat * y.toNat) ∧ FieldLaw (fsqrResult x) ((x.toNat : Int) ^ 2) ∧
    (0 < sint32 arg → FieldLaw (fsqrnResult x arg) ((x.toNat : Int) ^ 2 ^ (sint32 arg).toNat))) ∧
  2 * ((primeP + 1) / 2) % primeP = 1

/-- R127: the laws of the add-type commands, for every draw. (a) holds for every input and under both values of NONCANON;
the even non-canonical input of FHALF in (c), and the difference of a non-canonical value with itself, are of the datapaths,
since R120 and R210 give these results no value under NONCANON = any (log 15), but for FSUB with RD = RS1 = RS2, which R123
gives 0 'canonical or not'. -/
def Obligations.AddTypeLaws : Prop :=
  (∀ (a : FieldElement) (n : Nat), ftwiceResult a n = faddResult a a n) ∧
  (∀ (x y : FieldElement) (one : Bool) (n m : Nat), canonical x = true → canonical y = true →
    faddResult x (fnegResult x n) m = 0 ∧ fsubResult one x x n = 0 ∧ fhalfResult (ftwiceResult x n) m = x ∧
    ftwiceResult (fhalfResult x n) m = x ∧ fadd1Result x n = faddResult x 1 m ∧
    fnegResult (fnegResult x n) m = x ∧ fsubResult one x y n = faddResult x (fnegResult y n) m) ∧
  (∀ (x y : FieldElement) (one : Bool) (n : Nat), canonical x = true → canonical y = true →
    canonical (faddResult x y n) = true ∧ canonical (fadd1Result x n) = true ∧ canonical (fsubResult one x y n) = true ∧
    canonical (fnegResult x n) = true ∧ canonical (ftwiceResult x n) = true ∧ canonical (fhalfResult x n) = true) ∧
  (∀ x : FieldElement, canonical x = true ∨ x.toNat % 2 = 0 → canonical (fhalfDatapath x) = true) ∧
  (∀ (x : FieldElement) (n : Nat), fsubDatapath x x = 0 ∧ fsubResult true x x n = 0) ∧
  ∀ (x : ExtElement) (n : Nat), xsubDatapath x x = 0 ∧ (extCanonical x = true → xsubResult x x n = 0)

/-- R188: the laws of the reduction pipeline. -/
def Obligations.PipelineLaws : Prop :=
  (∀ (xx yy : ExtElement) (k : Nat), yy.toNat = xx.toNat + k * primeP → reduce yy = reduce xx) ∧
  (∀ a b : FieldElement, (reduce (mul384 a b)).toNat = a.toNat * b.toNat % primeP) ∧
  (∀ z : FieldElement, reduce (z.setWidth 384) = fcanonResult z ∧ fcanonResult z = reduce32 0 z ∧
    (reduce32 0 z).toNat = z.toNat % primeP) ∧
  (∀ (x : Word) (z : FieldElement), reduce32 x z = reduce (BitVec.ofNat 384 (x.toNat * 2 ^ 192 + z.toNat))) ∧
  (∀ z : FieldElement, canonical z = true → reduce32 0 z = z)

/-- R214: extended accumulation reduces to the field's sum and difference and stays below PExt. -/
def Obligations.ExtendedAccumulation : Prop :=
  ∀ (a b : ExtElement) (n : Nat), extCanonical a = true → extCanonical b = true →
    (reduce (xaddResult a b n)).toNat = (a.toNat + b.toNat) % primeP ∧
    (reduce (xsubResult a b n)).toNat = (((a.toNat : Int) - b.toNat) % primeP).toNat ∧
    extCanonical (xaddResult a b n) = true ∧ extCanonical (xsubResult a b n) = true
end

