-- ==== Sys2Proof/Laws/Decode.lean ====
section
/-! SUPPORT. The fields of an encoded word are the fields it was made of (30_encoding.md R90, R105). -/

namespace Sys2Proof

@[simp] theorem opField_encodeFields (op : BitVec 5) (d a b : Fin 16) : opField (encodeFields op d a b) = op := by
  ext j hj
  have h1 : ¬ (27 + j < 15) := by omega
  have h2 : ¬ (27 + j - 15 < 4) := by omega
  have h3 : ¬ (27 + j - 15 - 4 < 4) := by omega
  have h4 : ¬ (27 + j - 15 - 4 - 4 < 4) := by omega
  have h5 : 27 + j - 15 - 4 - 4 - 4 = j := by omega
  simp only [opField, BitVec.getElem_extractLsb', encodeFields]
  rw [BitVec.getLsbD_append, if_neg h1, BitVec.getLsbD_append, if_neg h2, BitVec.getLsbD_append, if_neg h3,
    BitVec.getLsbD_append, if_neg h4, h5]
  exact BitVec.getLsbD_eq_getElem hj

theorem getLsbD_field (x : BitVec 4) (j : Nat) (hj : j < 4) : x.getLsbD j = x[j] := BitVec.getLsbD_eq_getElem hj

@[simp] theorem rdField_encodeFields (op : BitVec 5) (d a b : Fin 16) : rdField (encodeFields op d a b) = d := by
  have : (encodeFields op d a b).extractLsb' 23 4 = BitVec.ofFin (w := 4) d := by
    ext j hj
    have h1 : ¬ (23 + j < 15) := by omega
    have h2 : ¬ (23 + j - 15 < 4) := by omega
    have h3 : ¬ (23 + j - 15 - 4 < 4) := by omega
    have h4 : 23 + j - 15 - 4 - 4 < 4 := by omega
    have h5 : 23 + j - 15 - 4 - 4 = j := by omega
    simp only [BitVec.getElem_extractLsb', encodeFields]
    rw [BitVec.getLsbD_append, if_neg h1, BitVec.getLsbD_append, if_neg h2, BitVec.getLsbD_append, if_neg h3,
      BitVec.getLsbD_append, if_pos h4, h5]
    exact getLsbD_field _ j hj
  simp [rdField, this]

@[simp] theorem rs1Field_encodeFields (op : BitVec 5) (d a b : Fin 16) : rs1Field (encodeFields op d a b) = a := by
  have : (encodeFields op d a b).extractLsb' 19 4 = BitVec.ofFin (w := 4) a := by
    ext j hj
    have h1 : ¬ (19 + j < 15) := by omega
    have h2 : ¬ (19 + j - 15 < 4) := by omega
    have h3 : 19 + j - 15 - 4 < 4 := by omega
    have h5 : 19 + j - 15 - 4 = j := by omega
    simp only [BitVec.getElem_extractLsb', encodeFields]
    rw [BitVec.getLsbD_append, if_neg h1, BitVec.getLsbD_append, if_neg h2, BitVec.getLsbD_append, if_pos h3, h5]
    exact getLsbD_field _ j hj
  simp [rs1Field, this]

@[simp] theorem rs2Field_encodeFields (op : BitVec 5) (d a b : Fin 16) : rs2Field (encodeFields op d a b) = b := by
  have : (encodeFields op d a b).extractLsb' 15 4 = BitVec.ofFin (w := 4) b := by
    ext j hj
    have h1 : ¬ (15 + j < 15) := by omega
    have h2 : 15 + j - 15 < 4 := by omega
    have h5 : 15 + j - 15 = j := by omega
    simp only [BitVec.getElem_extractLsb', encodeFields]
    rw [BitVec.getLsbD_append, if_neg h1, BitVec.getLsbD_append, if_pos h2, h5]
    exact getLsbD_field _ j hj
  simp [rs2Field, this]

@[simp] theorem zeroField_encodeFields (op : BitVec 5) (d a b : Fin 16) : zeroField (encodeFields op d a b) = 0 := by
  ext j hj
  have h1 : 0 + j < 15 := by omega
  simp only [zeroField, BitVec.getElem_extractLsb', encodeFields, BitVec.getLsbD_append, h1, if_true]
  simp

/-- A word is its five fields (R90). -/
theorem encodeFields_fields (w : Word) (h : zeroField w = 0) :
    encodeFields (opField w) (rdField w) (rs1Field w) (rs2Field w) = w := by
  ext j hj
  have hz : ∀ k, k < 15 → w.getLsbD k = false := by
    intro k hk
    have := congrArg (fun z : BitVec 15 => z.getLsbD k) h
    simpa [zeroField, hk] using this
  have e : ∀ x : BitVec 4, BitVec.ofFin (w := 4) x.toFin = x := fun x => rfl
  simp only [encodeFields, rdField, rs1Field, rs2Field, e, opField]
  simp only [← BitVec.getLsbD_eq_getElem, BitVec.getLsbD_append, BitVec.getLsbD_extractLsb', BitVec.getLsbD_zero]
  split
  · rw [hz j (by assumption)]
  · split
    · rename_i h1 h2; simp [h2]; congr 1; omega
    · split
      · rename_i h1 h2 h3; simp [h3]; congr 1; omega
      · split
        · rename_i h1 h2 h3 h4; simp [h4]; congr 1; omega
        · have h5 : j - 15 - 4 - 4 - 4 < 5 := by omega
          simp [h5]; congr 1; omega

/-- A word that decodes has a row, a zero ZERO field and no field error, and is what the row builds (R100). -/
theorem decode_ok {w : Word} {i : Instr} (h : decode w = .ok i) :
    ∃ row, commandRow (opField w).toNat = some row ∧ zeroField w = 0 ∧
      row.error (rdField w) (rs1Field w) (rs2Field w) = none ∧
      i = row.build (rdField w) (rs1Field w) (rs2Field w) := by
  unfold decode at h
  split at h
  · cases h
  · rename_i row hr
    split at h
    · rename_i hz
      split at h
      · rename_i he; cases h; exact ⟨row, hr, hz, he, rfl⟩
      · cases h
    · cases h

/-- Only opcodes 0x01 to 0x0E have a row (R93). -/
theorem commandRow_range {n : Nat} {row : CommandRow} (h : commandRow n = some row) : 1 ≤ n ∧ n ≤ 14 := by
  unfold commandRow at h
  split at h <;> first | omega | cases h

end Sys2Proof
end

