-- ==== Sys2Proof/Laws/State.lean ====
section
/-! SUPPORT. What each update of the state does to each field: one lemma per field per update, so that no later proof
unfolds a record update. -/

namespace Sys2Proof.Machine

open Sys2Proof

variable (s : State)

/-! A command's write of F[r] (30_encoding.md R103). -/

@[simp] theorem State.writeField_f (r : FReg) (v : FieldElement) : (s.writeField r v).f = s.f.set r v := rfl
@[simp] theorem State.writeField_x (r : FReg) (v : FieldElement) : (s.writeField r v).x = s.x := rfl
@[simp] theorem State.writeField_arg (r : FReg) (v : FieldElement) : (s.writeField r v).arg = s.arg := rfl
@[simp] theorem State.writeField_fWritten (r : FReg) (v : FieldElement) : (s.writeField r v).fWritten = s.fWritten.set r (BitVec.allOnes 6) := rfl
@[simp] theorem State.writeField_xWritten (r : FReg) (v : FieldElement) : (s.writeField r v).xWritten = s.xWritten := rfl
@[simp] theorem State.writeField_argWritten (r : FReg) (v : FieldElement) : (s.writeField r v).argWritten = s.argWritten := rfl
@[simp] theorem State.writeField_uninit (r : FReg) (v : FieldElement) : (s.writeField r v).uninit = s.uninit := rfl
@[simp] theorem State.writeField_err (r : FReg) (v : FieldElement) : (s.writeField r v).err = s.err := rfl
@[simp] theorem State.writeField_errCode (r : FReg) (v : FieldElement) : (s.writeField r v).errCode = s.errCode := rfl
@[simp] theorem State.writeField_errInfo (r : FReg) (v : FieldElement) : (s.writeField r v).errInfo = s.errInfo := rfl
@[simp] theorem State.writeField_pending (r : FReg) (v : FieldElement) : (s.writeField r v).pending = s.pending := rfl
@[simp] theorem State.writeField_resetAsserted (r : FReg) (v : FieldElement) : (s.writeField r v).resetAsserted = s.resetAsserted := rfl
@[simp] theorem State.writeField_inputs (r : FReg) (v : FieldElement) : (s.writeField r v).inputs = s.inputs := rfl
@[simp] theorem State.writeField_reply (r : FReg) (v : FieldElement) : (s.writeField r v).reply = s.reply := rfl
@[simp] theorem State.writeField_draws (r : FReg) (v : FieldElement) : (s.writeField r v).draws = s.draws := rfl

/-! A command's write of X[r] (R103). -/

@[simp] theorem State.writeExt_f (r : XReg) (v : ExtElement) : (s.writeExt r v).f = s.f := rfl
@[simp] theorem State.writeExt_x (r : XReg) (v : ExtElement) : (s.writeExt r v).x = s.x.set r v := rfl
@[simp] theorem State.writeExt_arg (r : XReg) (v : ExtElement) : (s.writeExt r v).arg = s.arg := rfl
@[simp] theorem State.writeExt_fWritten (r : XReg) (v : ExtElement) : (s.writeExt r v).fWritten = s.fWritten := rfl
@[simp] theorem State.writeExt_xWritten (r : XReg) (v : ExtElement) : (s.writeExt r v).xWritten = s.xWritten.set r (BitVec.allOnes 12) := rfl
@[simp] theorem State.writeExt_argWritten (r : XReg) (v : ExtElement) : (s.writeExt r v).argWritten = s.argWritten := rfl
@[simp] theorem State.writeExt_uninit (r : XReg) (v : ExtElement) : (s.writeExt r v).uninit = s.uninit := rfl
@[simp] theorem State.writeExt_err (r : XReg) (v : ExtElement) : (s.writeExt r v).err = s.err := rfl
@[simp] theorem State.writeExt_errCode (r : XReg) (v : ExtElement) : (s.writeExt r v).errCode = s.errCode := rfl
@[simp] theorem State.writeExt_errInfo (r : XReg) (v : ExtElement) : (s.writeExt r v).errInfo = s.errInfo := rfl
@[simp] theorem State.writeExt_pending (r : XReg) (v : ExtElement) : (s.writeExt r v).pending = s.pending := rfl
@[simp] theorem State.writeExt_resetAsserted (r : XReg) (v : ExtElement) : (s.writeExt r v).resetAsserted = s.resetAsserted := rfl
@[simp] theorem State.writeExt_inputs (r : XReg) (v : ExtElement) : (s.writeExt r v).inputs = s.inputs := rfl
@[simp] theorem State.writeExt_reply (r : XReg) (v : ExtElement) : (s.writeExt r v).reply = s.reply := rfl
@[simp] theorem State.writeExt_draws (r : XReg) (v : ExtElement) : (s.writeExt r v).draws = s.draws := rfl

/-! A host write of one word of F[r] (20_memory.md R62). -/

@[simp] theorem State.writeFieldWord_f (r : FReg) (i : Fin 6) (v : Word) : (s.writeFieldWord r i v).f = s.f.set r (setWordAt s.f[r] i v) := rfl
@[simp] theorem State.writeFieldWord_x (r : FReg) (i : Fin 6) (v : Word) : (s.writeFieldWord r i v).x = s.x := rfl
@[simp] theorem State.writeFieldWord_arg (r : FReg) (i : Fin 6) (v : Word) : (s.writeFieldWord r i v).arg = s.arg := rfl
@[simp] theorem State.writeFieldWord_fWritten (r : FReg) (i : Fin 6) (v : Word) : (s.writeFieldWord r i v).fWritten = s.fWritten.set r (s.fWritten[r] ||| (1#6 <<< i.val)) := rfl
@[simp] theorem State.writeFieldWord_xWritten (r : FReg) (i : Fin 6) (v : Word) : (s.writeFieldWord r i v).xWritten = s.xWritten := rfl
@[simp] theorem State.writeFieldWord_argWritten (r : FReg) (i : Fin 6) (v : Word) : (s.writeFieldWord r i v).argWritten = s.argWritten := rfl
@[simp] theorem State.writeFieldWord_uninit (r : FReg) (i : Fin 6) (v : Word) : (s.writeFieldWord r i v).uninit = s.uninit := rfl
@[simp] theorem State.writeFieldWord_err (r : FReg) (i : Fin 6) (v : Word) : (s.writeFieldWord r i v).err = s.err := rfl
@[simp] theorem State.writeFieldWord_errCode (r : FReg) (i : Fin 6) (v : Word) : (s.writeFieldWord r i v).errCode = s.errCode := rfl
@[simp] theorem State.writeFieldWord_errInfo (r : FReg) (i : Fin 6) (v : Word) : (s.writeFieldWord r i v).errInfo = s.errInfo := rfl
@[simp] theorem State.writeFieldWord_pending (r : FReg) (i : Fin 6) (v : Word) : (s.writeFieldWord r i v).pending = s.pending := rfl
@[simp] theorem State.writeFieldWord_resetAsserted (r : FReg) (i : Fin 6) (v : Word) : (s.writeFieldWord r i v).resetAsserted = s.resetAsserted := rfl
@[simp] theorem State.writeFieldWord_inputs (r : FReg) (i : Fin 6) (v : Word) : (s.writeFieldWord r i v).inputs = s.inputs := rfl
@[simp] theorem State.writeFieldWord_reply (r : FReg) (i : Fin 6) (v : Word) : (s.writeFieldWord r i v).reply = s.reply := rfl
@[simp] theorem State.writeFieldWord_draws (r : FReg) (i : Fin 6) (v : Word) : (s.writeFieldWord r i v).draws = s.draws := rfl

/-! A host write of one word of X[r] (R63). -/

@[simp] theorem State.writeExtWord_f (r : XReg) (i : Fin 12) (v : Word) : (s.writeExtWord r i v).f = s.f := rfl
@[simp] theorem State.writeExtWord_x (r : XReg) (i : Fin 12) (v : Word) : (s.writeExtWord r i v).x = s.x.set r (setWordAt s.x[r] i v) := rfl
@[simp] theorem State.writeExtWord_arg (r : XReg) (i : Fin 12) (v : Word) : (s.writeExtWord r i v).arg = s.arg := rfl
@[simp] theorem State.writeExtWord_fWritten (r : XReg) (i : Fin 12) (v : Word) : (s.writeExtWord r i v).fWritten = s.fWritten := rfl
@[simp] theorem State.writeExtWord_xWritten (r : XReg) (i : Fin 12) (v : Word) : (s.writeExtWord r i v).xWritten = s.xWritten.set r (s.xWritten[r] ||| (1#12 <<< i.val)) := rfl
@[simp] theorem State.writeExtWord_argWritten (r : XReg) (i : Fin 12) (v : Word) : (s.writeExtWord r i v).argWritten = s.argWritten := rfl
@[simp] theorem State.writeExtWord_uninit (r : XReg) (i : Fin 12) (v : Word) : (s.writeExtWord r i v).uninit = s.uninit := rfl
@[simp] theorem State.writeExtWord_err (r : XReg) (i : Fin 12) (v : Word) : (s.writeExtWord r i v).err = s.err := rfl
@[simp] theorem State.writeExtWord_errCode (r : XReg) (i : Fin 12) (v : Word) : (s.writeExtWord r i v).errCode = s.errCode := rfl
@[simp] theorem State.writeExtWord_errInfo (r : XReg) (i : Fin 12) (v : Word) : (s.writeExtWord r i v).errInfo = s.errInfo := rfl
@[simp] theorem State.writeExtWord_pending (r : XReg) (i : Fin 12) (v : Word) : (s.writeExtWord r i v).pending = s.pending := rfl
@[simp] theorem State.writeExtWord_resetAsserted (r : XReg) (i : Fin 12) (v : Word) : (s.writeExtWord r i v).resetAsserted = s.resetAsserted := rfl
@[simp] theorem State.writeExtWord_inputs (r : XReg) (i : Fin 12) (v : Word) : (s.writeExtWord r i v).inputs = s.inputs := rfl
@[simp] theorem State.writeExtWord_reply (r : XReg) (i : Fin 12) (v : Word) : (s.writeExtWord r i v).reply = s.reply := rfl
@[simp] theorem State.writeExtWord_draws (r : XReg) (i : Fin 12) (v : Word) : (s.writeExtWord r i v).draws = s.draws := rfl

/-! A host write of ARG (10_state.md R32). -/

@[simp] theorem State.writeArg_f (v : Word) : (s.writeArg v).f = s.f := rfl
@[simp] theorem State.writeArg_x (v : Word) : (s.writeArg v).x = s.x := rfl
@[simp] theorem State.writeArg_arg (v : Word) : (s.writeArg v).arg = v := rfl
@[simp] theorem State.writeArg_fWritten (v : Word) : (s.writeArg v).fWritten = s.fWritten := rfl
@[simp] theorem State.writeArg_xWritten (v : Word) : (s.writeArg v).xWritten = s.xWritten := rfl
@[simp] theorem State.writeArg_argWritten (v : Word) : (s.writeArg v).argWritten = true := rfl
@[simp] theorem State.writeArg_uninit (v : Word) : (s.writeArg v).uninit = s.uninit := rfl
@[simp] theorem State.writeArg_err (v : Word) : (s.writeArg v).err = s.err := rfl
@[simp] theorem State.writeArg_errCode (v : Word) : (s.writeArg v).errCode = s.errCode := rfl
@[simp] theorem State.writeArg_errInfo (v : Word) : (s.writeArg v).errInfo = s.errInfo := rfl
@[simp] theorem State.writeArg_pending (v : Word) : (s.writeArg v).pending = s.pending := rfl
@[simp] theorem State.writeArg_resetAsserted (v : Word) : (s.writeArg v).resetAsserted = s.resetAsserted := rfl
@[simp] theorem State.writeArg_inputs (v : Word) : (s.writeArg v).inputs = s.inputs := rfl
@[simp] theorem State.writeArg_reply (v : Word) : (s.writeArg v).reply = s.reply := rfl
@[simp] theorem State.writeArg_draws (v : Word) : (s.writeArg v).draws = s.draws := rfl

/-! The slot filled (R38). -/

@[simp] theorem State.launch_f (i : Instr) (j : Job) : (s.launch i j).f = s.f := rfl
@[simp] theorem State.launch_x (i : Instr) (j : Job) : (s.launch i j).x = s.x := rfl
@[simp] theorem State.launch_arg (i : Instr) (j : Job) : (s.launch i j).arg = s.arg := rfl
@[simp] theorem State.launch_fWritten (i : Instr) (j : Job) : (s.launch i j).fWritten = s.fWritten := rfl
@[simp] theorem State.launch_xWritten (i : Instr) (j : Job) : (s.launch i j).xWritten = s.xWritten := rfl
@[simp] theorem State.launch_argWritten (i : Instr) (j : Job) : (s.launch i j).argWritten = s.argWritten := rfl
@[simp] theorem State.launch_uninit (i : Instr) (j : Job) : (s.launch i j).uninit = (s.uninit || s.uninitRead i) := rfl
@[simp] theorem State.launch_err (i : Instr) (j : Job) : (s.launch i j).err = s.err := rfl
@[simp] theorem State.launch_errCode (i : Instr) (j : Job) : (s.launch i j).errCode = s.errCode := rfl
@[simp] theorem State.launch_errInfo (i : Instr) (j : Job) : (s.launch i j).errInfo = s.errInfo := rfl
@[simp] theorem State.launch_pending (i : Instr) (j : Job) : (s.launch i j).pending = some ⟨encode i, j, s.uninitRead i⟩ := rfl
@[simp] theorem State.launch_resetAsserted (i : Instr) (j : Job) : (s.launch i j).resetAsserted = s.resetAsserted := rfl
@[simp] theorem State.launch_inputs (i : Instr) (j : Job) : (s.launch i j).inputs = s.inputs := rfl
@[simp] theorem State.launch_reply (i : Instr) (j : Job) : (s.launch i j).reply = s.reply := rfl
@[simp] theorem State.launch_draws (i : Instr) (j : Job) : (s.launch i j).draws = s.draws := rfl

/-! Reset asserted (70_reset_and_hazards.md R270). -/

@[simp] theorem State.assertReset_f : s.assertReset.f = Vector.ofFn (Config.unwrittenField s.draws) := rfl
@[simp] theorem State.assertReset_x : s.assertReset.x = Vector.ofFn (Config.unwrittenExt s.draws) := rfl
@[simp] theorem State.assertReset_arg : s.assertReset.arg = Config.unwrittenArg s.draws := rfl
@[simp] theorem State.assertReset_fWritten : s.assertReset.fWritten = Vector.replicate 16 0 := rfl
@[simp] theorem State.assertReset_xWritten : s.assertReset.xWritten = Vector.replicate 4 0 := rfl
@[simp] theorem State.assertReset_argWritten : s.assertReset.argWritten = false := rfl
@[simp] theorem State.assertReset_uninit : s.assertReset.uninit = false := rfl
@[simp] theorem State.assertReset_err : s.assertReset.err = false := rfl
@[simp] theorem State.assertReset_errCode : s.assertReset.errCode = .none := rfl
@[simp] theorem State.assertReset_errInfo : s.assertReset.errInfo = 0 := rfl
@[simp] theorem State.assertReset_pending : s.assertReset.pending = none := rfl
@[simp] theorem State.assertReset_resetAsserted : s.assertReset.resetAsserted = true := rfl
@[simp] theorem State.assertReset_inputs : s.assertReset.inputs = s.inputs := rfl
@[simp] theorem State.assertReset_reply : s.assertReset.reply = s.reply := rfl
@[simp] theorem State.assertReset_draws : s.assertReset.draws = s.draws := rfl

/-! Reset released (R273). -/

@[simp] theorem State.releaseReset_f : s.releaseReset.f = s.f := rfl
@[simp] theorem State.releaseReset_x : s.releaseReset.x = s.x := rfl
@[simp] theorem State.releaseReset_arg : s.releaseReset.arg = s.arg := rfl
@[simp] theorem State.releaseReset_fWritten : s.releaseReset.fWritten = s.fWritten := rfl
@[simp] theorem State.releaseReset_xWritten : s.releaseReset.xWritten = s.xWritten := rfl
@[simp] theorem State.releaseReset_argWritten : s.releaseReset.argWritten = s.argWritten := rfl
@[simp] theorem State.releaseReset_uninit : s.releaseReset.uninit = s.uninit := rfl
@[simp] theorem State.releaseReset_err : s.releaseReset.err = s.err := rfl
@[simp] theorem State.releaseReset_errCode : s.releaseReset.errCode = s.errCode := rfl
@[simp] theorem State.releaseReset_errInfo : s.releaseReset.errInfo = s.errInfo := rfl
@[simp] theorem State.releaseReset_pending : s.releaseReset.pending = s.pending := rfl
@[simp] theorem State.releaseReset_resetAsserted : s.releaseReset.resetAsserted = false := rfl
@[simp] theorem State.releaseReset_inputs : s.releaseReset.inputs = s.inputs := rfl
@[simp] theorem State.releaseReset_reply : s.releaseReset.reply = s.reply := rfl
@[simp] theorem State.releaseReset_draws : s.releaseReset.draws = s.draws := rfl

/-! The next event taken from the inputs. -/

@[simp] theorem State.consume_f : s.consume.f = s.f := rfl
@[simp] theorem State.consume_x : s.consume.x = s.x := rfl
@[simp] theorem State.consume_arg : s.consume.arg = s.arg := rfl
@[simp] theorem State.consume_fWritten : s.consume.fWritten = s.fWritten := rfl
@[simp] theorem State.consume_xWritten : s.consume.xWritten = s.xWritten := rfl
@[simp] theorem State.consume_argWritten : s.consume.argWritten = s.argWritten := rfl
@[simp] theorem State.consume_uninit : s.consume.uninit = s.uninit := rfl
@[simp] theorem State.consume_err : s.consume.err = s.err := rfl
@[simp] theorem State.consume_errCode : s.consume.errCode = s.errCode := rfl
@[simp] theorem State.consume_errInfo : s.consume.errInfo = s.errInfo := rfl
@[simp] theorem State.consume_pending : s.consume.pending = s.pending := rfl
@[simp] theorem State.consume_resetAsserted : s.consume.resetAsserted = s.resetAsserted := rfl
@[simp] theorem State.consume_inputs : s.consume.inputs = s.inputs.tail := rfl
@[simp] theorem State.consume_reply : s.consume.reply = none := rfl
@[simp] theorem State.consume_draws : s.consume.draws = s.draws + 1 := rfl

/-! The completed state of a command with destination F[r]. -/

@[simp] theorem State.idleWithField_f (r : FReg) (v : FieldElement) : (s.idleWithField r v).f = s.f.set r v := rfl
@[simp] theorem State.idleWithField_x (r : FReg) (v : FieldElement) : (s.idleWithField r v).x = s.x := rfl
@[simp] theorem State.idleWithField_arg (r : FReg) (v : FieldElement) : (s.idleWithField r v).arg = s.arg := rfl
@[simp] theorem State.idleWithField_fWritten (r : FReg) (v : FieldElement) : (s.idleWithField r v).fWritten = s.fWritten.set r (BitVec.allOnes 6) := rfl
@[simp] theorem State.idleWithField_xWritten (r : FReg) (v : FieldElement) : (s.idleWithField r v).xWritten = s.xWritten := rfl
@[simp] theorem State.idleWithField_argWritten (r : FReg) (v : FieldElement) : (s.idleWithField r v).argWritten = s.argWritten := rfl
@[simp] theorem State.idleWithField_uninit (r : FReg) (v : FieldElement) : (s.idleWithField r v).uninit = s.uninit := rfl
@[simp] theorem State.idleWithField_err (r : FReg) (v : FieldElement) : (s.idleWithField r v).err = s.err := rfl
@[simp] theorem State.idleWithField_errCode (r : FReg) (v : FieldElement) : (s.idleWithField r v).errCode = s.errCode := rfl
@[simp] theorem State.idleWithField_errInfo (r : FReg) (v : FieldElement) : (s.idleWithField r v).errInfo = s.errInfo := rfl
@[simp] theorem State.idleWithField_pending (r : FReg) (v : FieldElement) : (s.idleWithField r v).pending = none := rfl
@[simp] theorem State.idleWithField_resetAsserted (r : FReg) (v : FieldElement) : (s.idleWithField r v).resetAsserted = s.resetAsserted := rfl
@[simp] theorem State.idleWithField_inputs (r : FReg) (v : FieldElement) : (s.idleWithField r v).inputs = s.inputs := rfl
@[simp] theorem State.idleWithField_reply (r : FReg) (v : FieldElement) : (s.idleWithField r v).reply = s.reply := rfl
@[simp] theorem State.idleWithField_draws (r : FReg) (v : FieldElement) : (s.idleWithField r v).draws = s.draws := rfl

/-! The completed state of a command with destination X[r]. -/

@[simp] theorem State.idleWithExt_f (r : XReg) (v : ExtElement) : (s.idleWithExt r v).f = s.f := rfl
@[simp] theorem State.idleWithExt_x (r : XReg) (v : ExtElement) : (s.idleWithExt r v).x = s.x.set r v := rfl
@[simp] theorem State.idleWithExt_arg (r : XReg) (v : ExtElement) : (s.idleWithExt r v).arg = s.arg := rfl
@[simp] theorem State.idleWithExt_fWritten (r : XReg) (v : ExtElement) : (s.idleWithExt r v).fWritten = s.fWritten := rfl
@[simp] theorem State.idleWithExt_xWritten (r : XReg) (v : ExtElement) : (s.idleWithExt r v).xWritten = s.xWritten.set r (BitVec.allOnes 12) := rfl
@[simp] theorem State.idleWithExt_argWritten (r : XReg) (v : ExtElement) : (s.idleWithExt r v).argWritten = s.argWritten := rfl
@[simp] theorem State.idleWithExt_uninit (r : XReg) (v : ExtElement) : (s.idleWithExt r v).uninit = s.uninit := rfl
@[simp] theorem State.idleWithExt_err (r : XReg) (v : ExtElement) : (s.idleWithExt r v).err = s.err := rfl
@[simp] theorem State.idleWithExt_errCode (r : XReg) (v : ExtElement) : (s.idleWithExt r v).errCode = s.errCode := rfl
@[simp] theorem State.idleWithExt_errInfo (r : XReg) (v : ExtElement) : (s.idleWithExt r v).errInfo = s.errInfo := rfl
@[simp] theorem State.idleWithExt_pending (r : XReg) (v : ExtElement) : (s.idleWithExt r v).pending = none := rfl
@[simp] theorem State.idleWithExt_resetAsserted (r : XReg) (v : ExtElement) : (s.idleWithExt r v).resetAsserted = s.resetAsserted := rfl
@[simp] theorem State.idleWithExt_inputs (r : XReg) (v : ExtElement) : (s.idleWithExt r v).inputs = s.inputs := rfl
@[simp] theorem State.idleWithExt_reply (r : XReg) (v : ExtElement) : (s.idleWithExt r v).reply = s.reply := rfl
@[simp] theorem State.idleWithExt_draws (r : XReg) (v : ExtElement) : (s.idleWithExt r v).draws = s.draws := rfl

end Sys2Proof.Machine
end

