-- ==== Sys2Proof/Laws/Ops.lean ====
section
/-! SUPPORT. What each shared operation can do, said once: raising a fault (60_exceptions.md R241), the checks of
acceptance (30_encoding.md R101), a guarded port write (20_memory.md R66), the completing write and completion (R103). -/

namespace Sys2Proof.Machine

open Sys2Proof

variable (s : State)

theorem State.raiseFault_first {s : State} (code : ErrCode) (info : Word) (h : s.err = false) :
    s.raiseFault code info = { s with err := true, errCode := code, errInfo := info } := by
  simp [State.raiseFault, h]

theorem State.raiseFault_later {s : State} (code : ErrCode) (info : Word) (h : s.err = true) :
    s.raiseFault code info = s := by
  simp [State.raiseFault, h]

/-- Raising a fault touches ERR, ERRCODE and ERRINFO only (R241). -/
theorem State.raiseFault_frame (code : ErrCode) (info : Word) :
    s.raiseFault code info = { s with
      err := true
      errCode := if s.err then s.errCode else code
      errInfo := if s.err then s.errInfo else info } := by
  unfold State.raiseFault
  cases h : s.err
  · simp
  · cases s; simp_all

@[simp] theorem State.raiseFault_pending (code : ErrCode) (info : Word) :
    (s.raiseFault code info).pending = s.pending := by rw [State.raiseFault_frame]

@[simp] theorem State.raiseFault_err (code : ErrCode) (info : Word) : (s.raiseFault code info).err = true := by
  rw [State.raiseFault_frame]

theorem State.busy_of_pending {s : State} {p : Pending} (h : s.pending = some p) : s.busy = true := by
  simp [State.busy, h]

theorem State.not_busy_of_none {s : State} (h : s.pending = none) : s.busy = false := by
  simp [State.busy, h]

/-- The checks of acceptance say one of three things (R101, R246). -/
theorem State.checked_cases (word : Word) (taken : State) :
    (s.err = true ∧ s.checked word taken = s) ∨
    (s.err = false ∧ s.busy = true ∧
      s.checked word taken = { s with err := true, errCode := .busyCmd, errInfo := word }) ∨
    (s.err = false ∧ s.busy = false ∧ s.checked word taken = taken) := by
  cases he : s.err <;> cases hb : s.busy <;> simp [State.checked, State.raiseFault, he, hb]

theorem State.checked_ready {s : State} (word : Word) (taken : State) (h : s.ready) : s.checked word taken = taken := by
  simp [State.checked, h.1, State.busy, h.2]

theorem State.accept_ready {s : State} (i : Instr) (job : Job) (h : s.ready) :
    s.accept i job = s.launch i job := State.checked_ready _ _ h

theorem State.rejectIllegal_ready {s : State} (word : Word) (h : s.ready) :
    s.rejectIllegal word = { s with err := true, errCode := .illegal, errInfo := word } := by
  rw [State.rejectIllegal, State.checked_ready word _ h, State.raiseFault_first _ _ h.1]

/-- A write that needs BUSY = 0 lands or is dropped with PORTBUSY (R66). -/
theorem State.portWrite_cases (a : PortAddr) (landed : State) :
    (s.busy = false ∧ s.portWrite a landed = landed) ∨
    (s.busy = true ∧ s.portWrite a landed = s.raiseFault .portBusy (a.setWidth 32)) := by
  cases hb : s.busy <;> simp [State.portWrite, hb]

theorem State.writeBack_field (r : FReg) (v : FieldElement) :
    { s with pending := none }.writeBack (.field r v) = s.idleWithField r v := rfl

theorem State.writeBack_ext (r : XReg) (v : ExtElement) :
    { s with pending := none }.writeBack (.ext r v) = s.idleWithExt r v := rfl

theorem State.complete_idle {s : State} (h : s.pending = none) : s.complete = s := by simp [State.complete, h]

theorem State.complete_pending {s : State} {p : Pending} (h : s.pending = some p) :
    s.complete = { s with pending := none }.writeBack (p.result s.draws) := by simp [State.complete, h]

/-- A command whose snapshot is all marked completes with its rule's value (R103). -/
theorem Pending.result_marked {p : Pending} (n : Nat) (h : p.uninit = false) : p.result n = p.job.result n := by
  simp [Pending.result, h]

/-- Another completes with a draw in the same destination (60_exceptions.md R258(a)). -/
theorem Pending.result_uninit {p : Pending} (n : Nat) (h : p.uninit = true) :
    p.result n = (p.job.result n).undefined n := by simp [Pending.result, h]

theorem extIndex_some {r : Fin 16} {q : XReg} : extIndex r = some q ↔ r.val = q.val := by
  unfold extIndex
  constructor
  · intro h
    split at h
    · cases h; rfl
    · cases h
  · intro h
    have : r.val < 4 := by omega
    simp [this]
    ext; exact h

theorem extIndex_none {r : Fin 16} : extIndex r = none ↔ 4 ≤ r.val := by
  unfold extIndex
  split <;> simp <;> omega

end Sys2Proof.Machine
end

