-- ==== Sys2Proof/Laws/Step.lean ====
section
/-! SUPPORT. What one step can do, by the event it meets, and the address map read backwards. -/

namespace Sys2Proof.Machine

open Sys2Proof

/-- The step, by its event (20_memory.md R65, R66, R270; 30_encoding.md R103). -/
theorem step_of_read {s : State} {a : PortAddr} (h : s.nextEvent = .read a) :
    step s = .next { s.consume with reply := some (s.consume.hostRead a) } := by
  simp [step, h, runEvent]

theorem step_of_write {s : State} {a : PortAddr} {v : Word} (h : s.nextEvent = .write a v)
    (hr : s.resetAsserted = false) : step s = hostWrite a v s.consume := by
  simp [step, h, runEvent, hr]

theorem step_of_write_in_reset {s : State} {a : PortAddr} {v : Word} (h : s.nextEvent = .write a v) (hr : s.resetAsserted = true) : step s = .next s.consume := by
  simp [step, h, runEvent, hr]

theorem step_of_blockStep {s : State} (h : s.nextEvent = .blockStep) :
    step s = .next s.consume.complete := by simp [step, h, runEvent]

theorem step_of_assertReset {s : State} (h : s.nextEvent = .assertReset) :
    step s = .next s.consume.assertReset := by simp [step, h, runEvent]

theorem step_of_releaseReset {s : State} (h : s.nextEvent = .releaseReset) :
    step s = .next s.consume.releaseReset := by simp [step, h, runEvent]

/-- The bits of a field-window address as numbers (20_memory.md R62). -/
theorem fieldWindow_eq (a : PortAddr) : fieldWindow a =
    if h : a.toNat % 8 < 6 then .fieldWord ⟨a.toNat / 8 % 16, by omega⟩ ⟨a.toNat % 8, h⟩ else .reserved := by
  have h0 : (a.extractLsb' 0 3).toNat = a.toNat % 8 := by simp
  have h1 : (a.extractLsb' 3 4).toNat = a.toNat / 8 % 16 := by simp [Nat.shiftRight_eq_div_pow]
  have h2 : (a.extractLsb' 3 4).toFin = (⟨a.toNat / 8 % 16, by omega⟩ : Fin 16) := Fin.ext h1
  unfold fieldWindow
  split
  · rename_i h
    have h' : a.toNat % 8 < 6 := by omega
    simp only [h', dite_true, h2]
    congr 1
  · rename_i h
    have h' : ¬ a.toNat % 8 < 6 := by omega
    simp only [h', dite_false]

/-- The bits of an extended-window address as numbers (R63). -/
theorem extWindow_eq (a : PortAddr) : extWindow a =
    if h : a.toNat % 16 < 12 then .extWord ⟨a.toNat / 16 % 4, by omega⟩ ⟨a.toNat % 16, h⟩ else .reserved := by
  have h0 : (a.extractLsb' 0 4).toNat = a.toNat % 16 := by simp
  have h1 : (a.extractLsb' 4 2).toNat = a.toNat / 16 % 4 := by simp [Nat.shiftRight_eq_div_pow]
  have h2 : (a.extractLsb' 4 2).toFin = (⟨a.toNat / 16 % 4, by omega⟩ : Fin 4) := Fin.ext h1
  unfold extWindow
  split
  · rename_i h
    have h' : a.toNat % 16 < 12 := by omega
    simp only [h', dite_true, h2]
    congr 1
  · rename_i h
    have h' : ¬ a.toNat % 16 < 12 := by omega
    simp only [h', dite_false]

/-- The address map over numbers (R61). -/
theorem portTarget_eq (a : PortAddr) : portTarget a =
    if a.toNat = 0 then .cmd else if a.toNat = 1 then .arg else if a.toNat = 2 then .status
    else if a.toNat = 3 then .errInfo
    else if 0x100 ≤ a.toNat ∧ a.toNat ≤ 0x17F then fieldWindow a
    else if 0x200 ≤ a.toNat ∧ a.toNat ≤ 0x23F then extWindow a else .reserved := by
  have e0 : a = (0x000 : PortAddr) ↔ a.toNat = 0 := by constructor <;> intro h <;> bv_omega
  have e1 : a = (0x001 : PortAddr) ↔ a.toNat = 1 := by constructor <;> intro h <;> bv_omega
  have e2 : a = (0x002 : PortAddr) ↔ a.toNat = 2 := by constructor <;> intro h <;> bv_omega
  have e3 : a = (0x003 : PortAddr) ↔ a.toNat = 3 := by constructor <;> intro h <;> bv_omega
  simp only [portTarget, e0, e1, e2, e3]

/-- The field window's words (R62). -/
theorem portTarget_fieldWord {a : PortAddr} {r : FReg} {i : Fin 6} :
    portTarget a = .fieldWord r i ↔ IsFieldWordAddr a r i := by
  rw [portTarget_eq, fieldWindow_eq, extWindow_eq]
  have hr := r.isLt
  have hi := i.isLt
  constructor
  · intro h
    split_ifs at h
    cases h
    simp only [IsFieldWordAddr]
    omega
  · intro h
    rw [if_neg (by omega), if_neg (by omega), if_neg (by omega), if_neg (by omega), if_pos (by omega),
      dif_pos (by omega)]
    simp only [PortTarget.fieldWord.injEq, Fin.ext_iff]
    omega

/-- The extended window's words (R63). -/
theorem portTarget_extWord {a : PortAddr} {r : XReg} {i : Fin 12} :
    portTarget a = .extWord r i ↔ IsExtWordAddr a r i := by
  rw [portTarget_eq, fieldWindow_eq, extWindow_eq]
  have hr := r.isLt
  have hi := i.isLt
  constructor
  · intro h
    split_ifs at h
    cases h
    simp only [IsExtWordAddr]
    omega
  · intro h
    rw [if_neg (by omega), if_neg (by omega), if_neg (by omega), if_neg (by omega), if_neg (by omega),
      if_pos (by omega), dif_pos (by omega)]
    simp only [PortTarget.extWord.injEq, Fin.ext_iff]
    omega

theorem portTarget_arg {a : PortAddr} : portTarget a = .arg ↔ a.toNat = 1 := by
  rw [portTarget_eq, fieldWindow_eq, extWindow_eq]
  split_ifs <;> simp <;> omega

theorem portTarget_cmd {a : PortAddr} : portTarget a = .cmd ↔ a.toNat = 0 := by
  rw [portTarget_eq, fieldWindow_eq, extWindow_eq]
  split_ifs <;> simp <;> omega

/-- The reserved addresses (R64). -/
theorem portTarget_reserved {a : PortAddr} : portTarget a = .reserved ↔ ReservedAddr a := by
  rw [portTarget_eq, fieldWindow_eq, extWindow_eq]
  have := a.isLt
  split_ifs <;> simp <;> omega

/-- One more step of a run of any machine (Host.Core.run). -/
theorem run_of_step (M : Host.Core) (k : Nat) (s t : M.State) (h : M.step s = .next t) : M.run (k + 1) s = M.run k t := by
  simp [Host.Core.run, h]

/-- One more step of a run of the block. -/
theorem core_run_of_step (k : Nat) {s t : State} (h : step s = .next t) :
    Host.Core.run Sys2Proof.core (k + 1) s = Host.Core.run Sys2Proof.core k t :=
  run_of_step Sys2Proof.core k s t h

end Sys2Proof.Machine
end

