-- ==== Sys2Proof/Laws/Exec.lean ====
section
/-! SUPPORT. What a meaning, a host write and a completion can do, said once: every meaning is the checks of acceptance
around one of three outcomes (30_encoding.md R101); every host write is a command, a guarded write or nothing
(20_memory.md R66); a completion touches no status but BUSY (R103). -/

namespace Sys2Proof.Machine

open Sys2Proof

/-- Every meaning is the checks of acceptance around: the slot filled, ILLEGAL, or PRECOND (R101). -/
theorem exec_shape (i : Instr) (s : State) : ∃ t, exec i s = .next (s.checked (encode i) t) ∧
    ((∃ j, t = s.launch i j ∧ j.opcode = i.opcode ∧ j.dest = (rdField (encode i)).val ∧
        j.countPositive = true ∧ i.wellFormed = true) ∨
      (t = s.raiseFault .illegal (encode i) ∧ i.wellFormed = false) ∨
      (∃ rd rs1, i = .fsqrn rd rs1 ∧ sint32 s.argOperand ≤ 0 ∧ t = s.raiseFault .precond (encode i))) := by
  cases i
  case fsqrn rd rs1 =>
    refine ⟨_, rfl, ?_⟩
    split
    · rename_i h; exact .inr (.inr ⟨_, _, rfl, h, rfl⟩)
    · rename_i h; refine .inl ⟨_, rfl, rfl, ?_, ?_, rfl⟩
      · simp [encode, Job.dest]
      · simp [Job.countPositive]; omega
  case fred rd rs1 =>
    simp only [exec, execFred]
    cases h : extIndex rs1
    · exact ⟨_, rfl, .inr (.inl ⟨rfl, by simpa [extIndex_none, Instr.wellFormed, extFieldLegal] using h⟩)⟩
    · rw [extIndex_some] at h; rename_i q; have := q.isLt
      exact ⟨_, rfl, .inl ⟨_, rfl, rfl, by simp [encode, Job.dest], rfl,
        by simp [Instr.wellFormed, extFieldLegal]; omega⟩⟩
  case xadd d a b =>
    simp only [exec, execXadd]
    split
    · rename_i x y z h1 h2 h3
      rw [extIndex_some] at h1 h2 h3
      have := x.isLt; have := y.isLt; have := z.isLt
      exact ⟨_, rfl, .inl ⟨_, rfl, rfl, by simp [encode, Job.dest, h1], rfl,
        by simp [Instr.wellFormed, extFieldLegal]; omega⟩⟩
    · rename_i h
      refine ⟨_, rfl, .inr (.inl ⟨rfl, ?_⟩)⟩
      by_contra hc
      simp [Instr.wellFormed, extFieldLegal] at hc
      exact h ⟨d.val, hc.1⟩ ⟨a.val, hc.2.1⟩ ⟨b.val, hc.2.2⟩ (extIndex_some.2 rfl) (extIndex_some.2 rfl)
        (extIndex_some.2 rfl)
  case xsub d a b =>
    simp only [exec, execXsub]
    split
    · rename_i x y z h1 h2 h3
      rw [extIndex_some] at h1 h2 h3
      have := x.isLt; have := y.isLt; have := z.isLt
      exact ⟨_, rfl, .inl ⟨_, rfl, rfl, by simp [encode, Job.dest, h1], rfl,
        by simp [Instr.wellFormed, extFieldLegal]; omega⟩⟩
    · rename_i h
      refine ⟨_, rfl, .inr (.inl ⟨rfl, ?_⟩)⟩
      by_contra hc
      simp [Instr.wellFormed, extFieldLegal] at hc
      exact h ⟨d.val, hc.1⟩ ⟨a.val, hc.2.1⟩ ⟨b.val, hc.2.2⟩ (extIndex_some.2 rfl) (extIndex_some.2 rfl)
        (extIndex_some.2 rfl)
  all_goals exact ⟨_, rfl, .inl ⟨_, rfl, rfl, by simp [encode, Job.dest], rfl, rfl⟩⟩

/-- A host write is the delivery of a command, nothing, or a write guarded by BUSY (R64, R66). -/
theorem hostWrite_shape (a : PortAddr) (v : Word) (s : State) :
    hostWrite a v s = deliverCommand v s ∧ a.toNat = 0 ∨ hostWrite a v s = .next s ∨
    ∃ l, hostWrite a v s = .next (s.portWrite a l) ∧ GuardedAddr a ∧
      ((l = s.writeArg v ∧ portTarget a = .arg) ∨ (∃ r i, l = s.writeFieldWord r i v ∧ portTarget a = .fieldWord r i) ∨
        (∃ r i, l = s.writeExtWord r i v ∧ portTarget a = .extWord r i)) := by
  unfold hostWrite
  split
  · rename_i h; exact .inl ⟨rfl, portTarget_cmd.1 h⟩
  · rename_i h; exact .inr (.inr ⟨_, rfl, .inl (portTarget_arg.1 h), .inl ⟨rfl, h⟩⟩)
  · rename_i r i h
    exact .inr (.inr ⟨_, rfl, .inr (.inl ⟨r, i, portTarget_fieldWord.1 h⟩), .inr (.inl ⟨r, i, rfl, h⟩)⟩)
  · rename_i r i h
    exact .inr (.inr ⟨_, rfl, .inr (.inr ⟨r, i, portTarget_extWord.1 h⟩), .inr (.inr ⟨r, i, rfl, h⟩)⟩)
  all_goals exact .inr (.inl rfl)

/-- Completion leaves the fault record, UNINIT, the reset input and the inputs alone, and empties the slot (R103). -/
theorem complete_frame (s : State) :
    s.complete.err = s.err ∧ s.complete.errCode = s.errCode ∧ s.complete.errInfo = s.errInfo ∧
    s.complete.uninit = s.uninit ∧ s.complete.pending = none ∧ s.complete.resetAsserted = s.resetAsserted ∧
    s.complete.inputs = s.inputs := by
  cases hp : s.pending with
  | none => rw [State.complete_idle hp]; simp [hp]
  | some p =>
    rw [State.complete_pending hp]
    cases p.result s.draws <;> exact ⟨rfl, rfl, rfl, rfl, rfl, rfl, rfl⟩

/-- Completion and the fault record do not meet (R103, R244, R245). -/
theorem complete_with_fault (s : State) (e : Bool) (c : ErrCode) (n : Word) :
   ({ s with err := e, errCode := c, errInfo := n } : State).complete =
      { s.complete with err := e, errCode := c, errInfo := n } := by
  obtain ⟨f, x, arg, fw, xw, aw, un, er, ec, ei, p, ra, inp, rep, d⟩ := s
  cases p with
  | none => rfl
  | some p =>
    simp only [State.complete]
    cases p.result d <;> rfl

theorem portTarget_guarded {a : PortAddr} (h : GuardedAddr a) :
    portTarget a = .arg ∨ (∃ r i, portTarget a = .fieldWord r i) ∨ ∃ r i, portTarget a = .extWord r i := by
  rcases h with h | ⟨r, i, h⟩ | ⟨r, i, h⟩
  · exact .inl (portTarget_arg.2 h)
  · exact .inr (.inl ⟨r, i, portTarget_fieldWord.2 h⟩)
  · exact .inr (.inr ⟨r, i, portTarget_extWord.2 h⟩)

/-- The invariant as a conjunction. -/
theorem State.inv_iff (s : State) : s.inv = true ↔
    (s.err = (s.errCode != .none)) ∧ errInfoFits s.errCode s.errInfo = true ∧
    (∀ p, s.pending = some p → p.wf = true) ∧ (∀ p, s.pending = some p → p.uninit = true → s.uninit = true) ∧
    (s.resetAsserted = true → s.pending = none ∧ s.err = false ∧ s.fWritten = Vector.replicate 16 0 ∧
      s.xWritten = Vector.replicate 4 0 ∧ s.argWritten = false ∧ s.uninit = false) := by
  unfold State.inv
  cases s.resetAsserted <;> cases s.pending <;> cases s.uninit <;> simp <;> tauto

end Sys2Proof.Machine
end

