-- ==== Sys2Proof/Laws/PerInstr.lean ====
section
/-! SUPPORT. A fact about every command as syntax, one lemma per constructor: the word that encodes it has the command's
opcode and a zero ZERO field (30_encoding.md R92, R94). -/

namespace Sys2Proof.Laws.EncodeShape

open Sys2Proof

/-- The encoding has the command's OP and ZERO = 0. -/
def Statement (i : Instr) : Prop := opField (encode i) = i.opcode ∧ zeroField (encode i) = 0

/-- The two fields of any encoded word. -/
theorem encodeFields_shape (op : BitVec 5) (d a b : Fin 16) :
    opField (encodeFields op d a b) = op ∧ zeroField (encodeFields op d a b) = 0 :=
  ⟨opField_encodeFields op d a b, zeroField_encodeFields op d a b⟩

theorem fadd (rd rs1 rs2 : FReg) : Statement (.fadd rd rs1 rs2) := encodeFields_shape _ _ _ _
theorem fadd1 (rd rs1 : FReg) : Statement (.fadd1 rd rs1) := encodeFields_shape _ _ _ _
theorem fsub (rd rs1 rs2 : FReg) : Statement (.fsub rd rs1 rs2) := encodeFields_shape _ _ _ _
theorem fneg (rd rs1 : FReg) : Statement (.fneg rd rs1) := encodeFields_shape _ _ _ _
theorem ftwice (rd rs1 : FReg) : Statement (.ftwice rd rs1) := encodeFields_shape _ _ _ _
theorem fhalf (rd rs1 : FReg) : Statement (.fhalf rd rs1) := encodeFields_shape _ _ _ _
theorem fmul (rd rs1 rs2 : FReg) : Statement (.fmul rd rs1 rs2) := encodeFields_shape _ _ _ _
theorem fsqr (rd rs1 : FReg) : Statement (.fsqr rd rs1) := encodeFields_shape _ _ _ _
theorem fsqrn (rd rs1 : FReg) : Statement (.fsqrn rd rs1) := encodeFields_shape _ _ _ _
theorem fred (rd : FReg) (rs1 : Fin 16) : Statement (.fred rd rs1) := encodeFields_shape _ _ _ _
theorem fred32 (rd : FReg) : Statement (.fred32 rd) := encodeFields_shape _ _ _ _
theorem fcanon (rd rs1 : FReg) : Statement (.fcanon rd rs1) := encodeFields_shape _ _ _ _
theorem xadd (rd rs1 rs2 : Fin 16) : Statement (.xadd rd rs1 rs2) := encodeFields_shape _ _ _ _
theorem xsub (rd rs1 rs2 : Fin 16) : Statement (.xsub rd rs1 rs2) := encodeFields_shape _ _ _ _

end Sys2Proof.Laws.EncodeShape
end

