-- ==== Sys2Proof/Laws/Words.lean ====
section
/-! SUPPORT. Words of multi-word values, the constants, and the single corrections in exact arithmetic
(00_scope.md R9, R12, R13). -/

namespace Sys2Proof.Machine

open Sys2Proof

set_option exponentiation.threshold 500

/-- word_i(v) as the rule writes it (R9). -/
theorem wordAt_toNat {n : Nat} (v : BitVec n) (i : Nat) : (wordAt v i).toNat = v.toNat / 2 ^ (32 * i) % 2 ^ 32 := by
  simp [wordAt, Nat.shiftRight_eq_div_pow]

/-- The word just written is read back (R62, R63). -/
theorem wordAt_setWordAt_self {n : Nat} (v : BitVec n) (i : Nat) (w : Word) (h : 32 * i + 32 ≤ n) :
    wordAt (setWordAt v i w) i = w := by
  ext j hj
  have h1 : 32 * i + j < n := by omega
  have h2 : ¬ (32 * i + j < 32 * i) := by omega
  have h3 : j < n := by omega
  have h4 : 32 * i + j - 32 * i = j := by omega
  simp only [wordAt, setWordAt, BitVec.getElem_extractLsb', BitVec.getLsbD_or, BitVec.getLsbD_and, BitVec.getLsbD_not,
    BitVec.getLsbD_shiftLeft, BitVec.getLsbD_setWidth, BitVec.getLsbD_allOnes, h1, h2, h3, h4, hj, decide_true,
    decide_false, Bool.true_and, Bool.not_false, Bool.not_true, Bool.and_false, Bool.false_or]
  exact BitVec.getLsbD_eq_getElem hj

/-- Every other word is unchanged (R62, R63). -/
theorem wordAt_setWordAt_ne {n : Nat} (v : BitVec n) (i k : Nat) (w : Word) (h : k ≠ i) (hk : 32 * k + 32 ≤ n) :
    wordAt (setWordAt v i w) k = wordAt v k := by
  ext j hj
  have h1 : 32 * k + j < n := by omega
  simp only [wordAt, setWordAt, BitVec.getElem_extractLsb', BitVec.getLsbD_or, BitVec.getLsbD_and, BitVec.getLsbD_not,
    BitVec.getLsbD_shiftLeft, BitVec.getLsbD_setWidth, h1, BitVec.getLsbD_allOnes, decide_true, Bool.true_and]
  rcases Nat.lt_or_gt_of_ne h with hlt | hgt
  · have : 32 * k + j < 32 * i := by omega
    simp [this]
  · have h4 : ¬ (32 * k + j < 32 * i) := by omega
    have h5 : ¬ (32 * k + j - 32 * i < 32) := by omega
    have h6 : w.getLsbD (32 * k + j - 32 * i) = false := by
      apply BitVec.getLsbD_of_ge; omega
    simp [h5, h6]

theorem primeP_eq : primeP = 6277101735386680763835789423207666416083908700390324961279 := by decide

theorem w192_eq : w192 = 2 ^ 192 := rfl

theorem w384_eq : w384 = 2 ^ 384 := rfl

/-- SubPOnce192 as a number (R12). -/
theorem subPOnce192_toNat (s : Nat) (h : s < 2 ^ 193) :
    (subPOnce192 s).toNat = if s ≥ 2 ^ 192 ∨ s % 2 ^ 192 ≥ primeP then (s - primeP) % 2 ^ 192 else s := by
  unfold subPOnce192
  rw [w192_eq]
  split
  · simp
  · simp only [BitVec.toNat_ofNat]; omega

/-- SubPExtOnce384 as a number (R13). -/
theorem subPExtOnce384_toNat (s : Nat) (h : s < 2 ^ 385) :
    (subPExtOnce384 s).toNat = if s ≥ 2 ^ 384 ∨ s % 2 ^ 384 ≥ primePExt then (s - primePExt) % 2 ^ 384 else s := by
  unfold subPExtOnce384
  rw [w384_eq]
  split
  · simp
  · simp only [BitVec.toNat_ofNat]; omega

/-- An extended value is its twelve words (R9). -/
theorem ext_words (xx : ExtElement) : xx.toNat =
   (wordAt xx 0).toNat + (wordAt xx 1).toNat * 2^32 + (wordAt xx 2).toNat * 2^64 + (wordAt xx 3).toNat * 2^96 + (wordAt xx 4).toNat * 2^128
   + (wordAt xx 5).toNat * 2^160 + (wordAt xx 6).toNat * 2^192 + (wordAt xx 7).toNat * 2^224 + (wordAt xx 8).toNat * 2^256
   + (wordAt xx 9).toNat * 2^288 + (wordAt xx 10).toNat * 2^320 + (wordAt xx 11).toNat * 2^352 := by
  simp only [wordAt_toNat]
  have := xx.isLt
  omega

/-- A field element is its six words (R9). -/
theorem fe_words (z : FieldElement) : z.toNat =
   (wordAt z 0).toNat + (wordAt z 1).toNat * 2^32 + (wordAt z 2).toNat * 2^64 + (wordAt z 3).toNat * 2^96 + (wordAt z 4).toNat * 2^128
   + (wordAt z 5).toNat * 2^160 := by
  simp only [wordAt_toNat]
  have := z.isLt
  omega

/-- Two values with the same words are equal (R9). -/
theorem words_ext {k : Nat} (u v : BitVec (32*k)) (h : ∀ i, i < k → wordAt u i = wordAt v i) : u = v := by
  ext j hj
  have h1 := h (j / 32) (by omega)
  have := congrArg (fun w : Word => w.getLsbD (j % 32)) h1
  simp only [wordAt, BitVec.getLsbD_extractLsb'] at this
  have hm : j % 32 < 32 := by omega
  have e : 32 * (j/32) + j % 32 = j := by omega
  rw [e] at this
  rw [← BitVec.getLsbD_eq_getElem hj, ← BitVec.getLsbD_eq_getElem hj]
  simpa [hm] using this

/-- Every 192-bit value at or above P has P's top word, so the pre-check changes nothing (R12). -/
theorem topWord_of_ge (z : FieldElement) (h : z.toNat ≥ primeP) : wordAt z 5 = topWordP := by
  rw [← BitVec.toNat_inj, wordAt_toNat]
  have := z.isLt
  rw [primeP_eq] at h
  simp only [topWordP]
  show z.toNat / 2 ^ (32 * 5) % 2 ^ 32 = 4294967295
  omega

/-- PExt is a multiple of P (R37). -/
theorem primePExt_eq_mul : primePExt = primeP * primeP := by decide

/-- One corrective subtraction of P is the remainder below 2P (R12). -/
theorem sub_once_eq_mod (s : Nat) (h : s < 2 * primeP) :
    (if s ≥ 2 ^ 192 ∨ s % 2 ^ 192 ≥ primeP then (s - primeP) % 2 ^ 192 else s) = s % primeP := by
  rw [primeP_eq] at *
  split_ifs with hc
  · omega
  · omega

end Sys2Proof.Machine
end

