-- ==== Sys2Proof/Laws/Reduce.lean ====
section
/-! SUPPORT. The exact value of the coarse fold and of the double-width product
(42_reduce.md R181, 41_multiply.md R160). -/

namespace Sys2Proof.Machine

open Sys2Proof

set_option exponentiation.threshold 500

theorem val_six_lt (a0 a1 a2 a3 a4 a5 : Nat) :
    val [a0 % 2^32, a1 % 2^32, a2 % 2^32, a3%2^32, a4%2^32, a5%2^32] < 2^192 := by
  simp only [val]; omega

/-- Stage 1 as one sum: which words it adds at which offset (R181). -/
theorem fold_value (xx : ExtElement) : (fold xx).1 * 2^192 + (fold xx).2.toNat =
   ((wordAt xx 0).toNat + (wordAt xx 6).toNat + (wordAt xx 10).toNat)
   + ((wordAt xx 1).toNat + (wordAt xx 7).toNat + (wordAt xx 11).toNat) * 2^32
   + ((wordAt xx 2).toNat + (wordAt xx 6).toNat + (wordAt xx 8).toNat + (wordAt xx 10).toNat) * 2^64
   + ((wordAt xx 3).toNat + (wordAt xx 7).toNat + (wordAt xx 9).toNat + (wordAt xx 11).toNat) * 2^96
   + ((wordAt xx 4).toNat + (wordAt xx 8).toNat + (wordAt xx 10).toNat) * 2^128
   + ((wordAt xx 5).toNat + (wordAt xx 9).toNat + (wordAt xx 11).toNat) * 2^160 := by
  simp only [fold, BitVec.toNat_ofNat]
  rw [Nat.mod_eq_of_lt (val_six_lt _ _ _ _ _ _)]
  simp only [val, Nat.shiftRight_eq_div_pow]
  generalize (wordAt xx 0).toNat = w0
  generalize (wordAt xx 1).toNat = w1
  generalize (wordAt xx 2).toNat = w2
  generalize (wordAt xx 3).toNat = w3
  generalize (wordAt xx 4).toNat = w4
  generalize (wordAt xx 5).toNat = w5
  generalize (wordAt xx 6).toNat = w6
  generalize (wordAt xx 7).toNat = w7
  generalize (wordAt xx 8).toNat = w8
  generalize (wordAt xx 9).toNat = w9
  generalize (wordAt xx 10).toNat = w10
  generalize (wordAt xx 11).toNat = w11
  rw [show w6 + w10 + w8 - w6 = w10 + w8 by omega, show w7 + w11 + w9 - w7 = w11 + w9 by omega]
  generalize h0 : w0 + (w6 + w10) = a0
  have d0 := Nat.div_add_mod a0 (2^32)
  generalize a0 / 2^32 = q0 at *
  generalize a0 % 2^32 = r0 at *
  generalize h1 : q0 + w1 + (w7 + w11) = a1
  have d1 := Nat.div_add_mod a1 (2^32)
  generalize a1 / 2^32 = q1 at *
  generalize a1 % 2^32 = r1 at *
  generalize h2 : q1 + w2 + (w6 + w10 + w8) = a2
  have d2 := Nat.div_add_mod a2 (2^32)
  generalize a2 / 2^32 = q2 at *
  generalize a2 % 2^32 = r2 at *
  generalize h3 : q2 + w3 + (w7 + w11 + w9) = a3
  have d3 := Nat.div_add_mod a3 (2^32)
  generalize a3 / 2^32 = q3 at *
  generalize a3 % 2^32 = r3 at *
  generalize h4 : q3 + w4 + (w10 + w8) = a4
  have d4 := Nat.div_add_mod a4 (2^32)
  generalize a4 / 2^32 = q4 at *
  generalize a4 % 2^32 = r4 at *
  generalize h5 : q4 + w5 + (w11 + w9) = a5
  have d5 := Nat.div_add_mod a5 (2^32)
  generalize a5 / 2^32 = q5 at *
  generalize a5 % 2^32 = r5 at *
  omega

/-- The product fits the scratch (R160). -/
theorem mul384_toNat (a b : FieldElement) : (mul384 a b).toNat = a.toNat * b.toNat := by
  rw [mul384, BitVec.toNat_ofNat, Nat.mod_eq_of_lt]
  have : a.toNat * b.toNat < 2^192 * 2^192 := Nat.mul_lt_mul'' a.isLt b.isLt
  calc _ < _ := this
    _ = _ := by norm_num

/-- A square is a product (R160, R162). -/
theorem sqr384_eq_mul384 (a : FieldElement) : sqr384 a = mul384 a a := rfl

end Sys2Proof.Machine
end

