-- ==== Sys2Proof/Laws/Results.lean ====
section
/-! SUPPORT. The datapath of each add-type and extended command as a number, the parameter NONCANON, and how an
acceptance and a result make a command's run (40_field_addsub.md, 43_canon_ext.md, 30_encoding.md R101 to R103). -/

namespace Sys2Proof.Machine

open Sys2Proof

set_option exponentiation.threshold 500

/-- What NONCANON makes of a datapath value (R120). -/
theorem nonCanonField_spec (c : Bool) (v : FieldElement) (n : Nat) (P Q : Prop) (hP : c = true ↔ P ∨ Q) (contract dp : Nat)
    (h1 : P → v.toNat = contract) (h2 : v.toNat = dp) :
    AddTypeValue P Q contract dp (Config.freeField n).toNat (nonCanonField c v n).toNat := by
  refine ⟨fun h => ?_, fun h hn => ?_, fun h hq hn => ?_⟩
  · rw [nonCanonField, if_pos (hP.2 (.inl h))]; exact h1 h
  · unfold nonCanonField
    split
    · exact h2
    · rcases hn with hq | hn
      · exact absurd (hP.2 (.inr hq)) ‹_›
      · rw [hn]; exact h2
  · rw [nonCanonField, if_neg (fun hc => (hP.1 hc).elim h hq), hn]

/-- The same at the extended width (R210). -/
theorem nonCanonExt_spec (c : Bool) (v : ExtElement) (n : Nat) (P Q : Prop) (hP : c = true ↔ P ∨ Q) (contract dp : Nat)
    (h1 : P → v.toNat = contract) (h2 : v.toNat = dp) :
    AddTypeValue P Q contract dp (Config.freeExt n).toNat (nonCanonExt c v n).toNat := by
  refine ⟨fun h => ?_, fun h hn => ?_, fun h hq hn => ?_⟩
  · rw [nonCanonExt, if_pos (hP.2 (.inl h))]; exact h1 h
  · unfold nonCanonExt
    split
    · exact h2
    · rcases hn with hq | hn
      · exact absurd (hP.2 (.inr hq)) ‹_›
      · rw [hn]; exact h2
  · rw [nonCanonExt, if_neg (fun hc => (hP.1 hc).elim h hq), hn]

/-- For settled inputs NONCANON changes nothing (R120). -/
theorem nonCanonField_canonical {c : Bool} (v : FieldElement) (n : Nat) (h : c = true) : nonCanonField c v n = v := by
  rw [nonCanonField, if_pos h]

/-- The same at the extended width (R210). -/
theorem nonCanonExt_canonical {c : Bool} (v : ExtElement) (n : Nat) (h : c = true) : nonCanonExt c v n = v := by
  rw [nonCanonExt, if_pos h]

/-- A command that fills the slot with `j` runs to F[rd] with `j`'s result (R101, R103). -/
theorem runsToField_of {i : Instr} {s : State} {rd : FReg} {good} {j : Job} {r : Nat → FieldElement}
  (h1 : exec i s = .next (s.launch i j)) (h2 : ∀ n, j.result n = .field rd (r n)) (h3 : ∀ n, good n (r n)) :
  RunsToField i s rd good := by
  refine ⟨⟨encode i, j, s.uninitRead i⟩, h1, fun t ht => ⟨fun hu => ⟨r t.draws, h3 _, ?_⟩, fun hu => ?_⟩⟩
  · rw [State.complete_pending ht, Pending.result_marked _ hu, h2, State.writeBack_field]
  · rw [State.complete_pending ht, Pending.result_uninit _ hu, h2, RegWrite.undefined, State.writeBack_field]

/-- The same for a command whose destination is X[rd]. -/
theorem runsToExt_of {i : Instr} {s : State} {rd : XReg} {good} {j : Job} {r : Nat → ExtElement}
  (h1 : exec i s = .next (s.launch i j)) (h2 : ∀ n, j.result n = .ext rd (r n)) (h3 : ∀ n, good n (r n)) :
  RunsToExt i s rd good := by
  refine ⟨⟨encode i, j, s.uninitRead i⟩, h1, fun t ht => ⟨fun hu => ⟨r t.draws, h3 _, ?_⟩, fun hu => ?_⟩⟩
  · rw [State.complete_pending ht, Pending.result_marked _ hu, h2, State.writeBack_ext]
  · rw [State.complete_pending ht, Pending.result_uninit _ hu, h2, RegWrite.undefined, State.writeBack_ext]

theorem canonical_iff (a : FieldElement) : canonical a = true ↔ a.toNat < primeP := by simp [canonical]

theorem canonical_and_iff (a b : FieldElement) :
    (canonical a && canonical b) = true ↔ (a.toNat < primeP ∧ b.toNat < primeP) := by simp [canonical]

/-- When FSUB's value is settled (R120, R123). -/
theorem fsub_settled_iff (oneReg : Bool) (a b : FieldElement) : ((canonical a && canonical b) || oneReg) = true ↔
    (a.toNat < primeP ∧ b.toNat < primeP) ∨ oneReg = true := by rw [Bool.or_eq_true, canonical_and_iff]

theorem extCanonical_and_iff (a b : ExtElement) :
    (extCanonical a && extCanonical b) = true ↔ (a.toNat < primePExt ∧ b.toNat < primePExt) := by simp [extCanonical]

/-- A settled FSUB is its datapath's value (R123). -/
theorem fsubResult_settled {oneReg : Bool} {a b : FieldElement} (n : Nat)
    (h : (a.toNat < primeP ∧ b.toNat < primeP) ∨ oneReg = true) : fsubResult oneReg a b n = fsubDatapath a b :=
  nonCanonField_canonical _ _ ((fsub_settled_iff oneReg a b).2 h)

/-- A result that is a remainder modulo P meets its field law (00_scope.md R15). -/
theorem fieldLaw_of_mod {z : FieldElement} {n : Nat} (h : z.toNat = n % primeP) : FieldLaw z n := by
  refine ⟨h ▸ Nat.mod_lt _ (by decide), ?_⟩
  rw [h, Int.natCast_mod]
  exact Int.mod_modEq _ _

/-- FSUB's datapath (R123). -/
theorem fsubDatapath_toNat (a b : FieldElement) : (fsubDatapath a b).toNat =
  if a.toNat < b.toNat then (((a.toNat : Int) - b.toNat + primeP) % 2 ^ 192).toNat else a.toNat - b.toNat := by
  unfold fsubDatapath subAddPOnce192
  split
  · rw [BitVec.toNat_ofInt]; norm_num
  · rw [BitVec.toNat_ofNat]; have := a.isLt; omega

/-- FNEG's datapath (R124). -/
theorem fnegDatapath_toNat (a : FieldElement) : (fnegDatapath a).toNat =
  if a.toNat = 0 then 0 else (((primeP : Int) - a.toNat) % 2 ^ 192).toNat := by
  unfold fnegDatapath
  split
  · rfl
  · rw [BitVec.toNat_ofInt]; norm_num

/-- FTWICE's datapath (R125). -/
theorem ftwiceDatapath_toNat (a : FieldElement) : (ftwiceDatapath a).toNat =
   if 2 * a.toNat ≥ 2 ^ 192 ∨ 2 * a.toNat % 2 ^ 192 ≥ primeP then (2 * a.toNat - primeP) % 2 ^ 192
    else 2 * a.toNat := by
  have ha := a.isLt
  have e : a.toNat <<< 1 = 2 * a.toNat := by rw [Nat.shiftLeft_eq]; omega
  rw [ftwiceDatapath, e, subPOnce192_toNat _ (by omega)]

/-- FHALF's datapath (R126). -/
theorem fhalfDatapath_toNat (a : FieldElement) :
    (fhalfDatapath a).toNat = if a.toNat % 2 = 0 then a.toNat / 2 else (a.toNat + primeP) / 2 := by
  have ha := a.isLt
  unfold fhalfDatapath
  rw [primeP_eq]
  split <;> rw [BitVec.toNat_ofNat, Nat.shiftRight_eq_div_pow] <;> omega

/-- XSUB's datapath (R213). -/
theorem xsubDatapath_toNat (a b : ExtElement) : (xsubDatapath a b).toNat =
  if a.toNat < b.toNat then (((a.toNat : Int) - b.toNat + primePExt) % 2 ^ 384).toNat else a.toNat - b.toNat := by
  unfold xsubDatapath subAddPExtOnce384
  split
  · rw [BitVec.toNat_ofInt]; norm_num
  · rw [BitVec.toNat_ofNat]; have := a.isLt; omega

end Sys2Proof.Machine
end

