-- ==== Sys2Proof/Tests/Slice0.lean ====
section
/-! SUPPORT. Checks of the model on values taken from spec/95_test_vectors.md, and for each obligation with hypotheses a
witness that meets them. -/

namespace Sys2Proof.Tests

open Sys2Proof Sys2Proof.Machine

set_option exponentiation.threshold 500

/-! The named constants of 95_test_vectors.md section 0 -/

def cP : FieldElement := 0xFFFFFFFFFFFFFFFFFFFFFFFFFFFFFFFEFFFFFFFFFFFFFFFF
def cPm1 : FieldElement := 0xFFFFFFFFFFFFFFFFFFFFFFFFFFFFFFFEFFFFFFFFFFFFFFFE
def cM192 : FieldElement := 0xFFFFFFFFFFFFFFFFFFFFFFFFFFFFFFFFFFFFFFFFFFFFFFFF
def cK : FieldElement := 0x000000000000000000000000000000010000000000000001
def cH : FieldElement := 0x7FFFFFFFFFFFFFFFFFFFFFFFFFFFFFFF8000000000000000
def cHm : FieldElement := 0x7FFFFFFFFFFFFFFFFFFFFFFFFFFFFFFF7FFFFFFFFFFFFFFF
def cQ : FieldElement := 0x3FFFFFFFFFFFFFFFFFFFFFFFFFFFFFFFC000000000000000
def cI3 : FieldElement := 0x555555555555555555555555555555550000000000000000
def cT191 : FieldElement := 0x800000000000000000000000000000000000000000000000
def cPExtM1 : ExtElement :=
  0xFFFFFFFFFFFFFFFFFFFFFFFFFFFFFFFDFFFFFFFFFFFFFFFE000000000000000100000000000000020000000000000000
def cKX : ExtElement :=
  0x000000000000000000000000000000020000000000000001FFFFFFFFFFFFFFFEFFFFFFFFFFFFFFFDFFFFFFFFFFFFFFFF
def cT383 : ExtElement :=
  0x800000000000000000000000000000000000000000000000000000000000000000000000000000000000000000000000
def cM384 : ExtElement := BitVec.allOnes 384

/-! States to run on -/

/-- Every register written: f1 = a, f2 = b, the other field registers 0, ARG as given. -/
def withF (a b : FieldElement) (arg : Word) : State :=
  { State.reset with
    f := ((Vector.replicate 16 0).set 1 a).set 2 b
    fWritten := Vector.replicate 16 (BitVec.allOnes 6)
    xWritten := Vector.replicate 4 (BitVec.allOnes 12)
    arg := arg
    argWritten := true }

/-- The same with x1 = a, x2 = b. -/
def withX (a b : ExtElement) : State :=
  { withF 0 0 0 with x := ((Vector.replicate 4 0).set 1 a).set 2 b }

/-- A command in flight on `withF`: `fmul f4, f2, f3`. -/
def busy : State :=
  { withF 0 2 0 with pending := some ⟨0x3A118000, .fmul 4 2 cH, false⟩ }

/-- What an answer's next state shows, if it has one. -/
def seen {α : Type} (get : State → α) : Answer → Option α
  | .next t => some (get t)
  | .fault _ => none
  | .refused _ => none

/-- F[r] once the command, accepted in `s`, has completed. -/
def fieldAfter (i : Instr) (s : State) (r : FReg) : Option FieldElement := seen (fun t => t.complete.f[r]) (exec i s)

/-- X[r] once the command has completed. -/
def extAfter (i : Instr) (s : State) (r : XReg) : Option ExtElement := seen (fun t => t.complete.x[r]) (exec i s)

/-- STATUS and ERRINFO after one step. -/
def statusAfter (s : State) : Option (Word × Word) := seen (fun t => (t.statusWord, t.errInfo)) (step s)

/-! WellFormed refuses each kind of ill-formed term -/

theorem test_fred_index_refused : (Instr.fred 0 4).wellFormed = false := by decide
theorem test_xadd_rd_refused : (Instr.xadd 4 0 0).wellFormed = false := by decide
theorem test_xadd_rs1_refused : (Instr.xadd 0 4 0).wellFormed = false := by decide
theorem test_xadd_rs2_refused : (Instr.xadd 0 0 4).wellFormed = false := by decide
theorem test_xsub_rd_refused : (Instr.xsub 15 0 0).wellFormed = false := by decide
theorem test_xsub_rs1_refused : (Instr.xsub 0 15 0).wellFormed = false := by decide
theorem test_xsub_rs2_refused : (Instr.xsub 0 0 15).wellFormed = false := by decide

/-! Each constructor's decoding, by a word of 95_test_vectors.md section 3 -/

theorem test_decode_fadd : decode 0x09890000 = .ok (.fadd 3 1 2) := rfl
theorem test_decode_fadd1 : decode 0x13200000 = .ok (.fadd1 6 4) := rfl
theorem test_decode_fsub : decode 0x1A190000 = .ok (.fsub 4 3 2) := rfl
theorem test_decode_fneg : decode 0x22A00000 = .ok (.fneg 5 4) := rfl
theorem test_decode_ftwice : decode 0x2A980000 = .ok (.ftwice 5 3) := rfl
theorem test_decode_fhalf : decode 0x31880000 = .ok (.fhalf 3 1) := rfl
theorem test_decode_fmul : decode 0x3A118000 = .ok (.fmul 4 2 3) := rfl
theorem test_decode_fsqr : decode 0x43180000 = .ok (.fsqr 6 3) := rfl
theorem test_decode_fsqrn : decode 0x49080000 = .ok (.fsqrn 2 1) := rfl
theorem test_decode_fred : decode 0x57980000 = .ok (.fred 15 3) := rfl
theorem test_decode_fred32 : decode 0x58800000 = .ok (.fred32 1) := rfl
theorem test_decode_fcanon : decode 0x61100000 = .ok (.fcanon 2 2) := rfl
theorem test_decode_xadd : decode 0x69890000 = .ok (.xadd 3 1 2) := rfl
theorem test_decode_xsub : decode 0x71188000 = .ok (.xsub 2 3 1) := rfl

/-! The refused words Q1 to Q11 -/

theorem test_decode_q1 : decode 0x00000000 = .error .reservedOpcode := rfl
theorem test_decode_q2 : decode 0x78000000 = .error .reservedOpcode := rfl
theorem test_decode_q3 : decode 0xF8000000 = .error .reservedOpcode := rfl
theorem test_decode_q4 : decode 0x09890001 = .error .reservedField := rfl
theorem test_decode_q5 : decode 0x13208000 = .error .unusedField := rfl
theorem test_decode_q6 : decode 0x50200000 = .error .extIndex := rfl
theorem test_decode_q7 : decode 0x6A000000 = .error .extIndex := rfl
theorem test_decode_q8 : decode 0x68020000 = .error .extIndex := rfl
theorem test_decode_q9 : decode 0x58880000 = .error .unusedField := rfl
theorem test_decode_q10 : decode 0x50188000 = .error .unusedField := rfl
theorem test_decode_q11 : decode 0x60078000 = .error .unusedField := rfl

/-! The commands: acceptance then completion (section 2), and the datapath on inputs that are not canonical (*nc*) -/

/-- A5, A2. -/
theorem test_fadd : fieldAfter (.fadd 3 1 2) (withF cT191 cT191 0) 3 = some cK ∧
    fieldAfter (.fadd 1 1 2) (withF cPm1 1 0) 1 = some 0 := by decide
/-- A9, A10. -/
theorem test_fadd_nc : faddDatapath cM192 cM192 = 0xFFFFFFFFFFFFFFFF ∧ faddDatapath cP 0 = 0 := by decide
/-- B3, B5. -/
theorem test_fadd1 : fieldAfter (.fadd1 6 1) (withF cPm1 0 0) 6 = some 0 ∧
    fieldAfter (.fadd1 6 1) (withF 0xFFFFFFFFFFFFFFFFFFFFFFFFFFFFFFFDFFFFFFFFFFFFFFFF 0 0) 6 =
      some 0xFFFFFFFFFFFFFFFFFFFFFFFFFFFFFFFE0000000000000000 := by decide
/-- B6, B7. -/
theorem test_fadd1_nc : fadd1Datapath cM192 = cK ∧ fadd1Datapath cP = 1 := by decide
/-- C3, C6: the operand order. -/
theorem test_fsub : fieldAfter (.fsub 3 1 2) (withF 1 cPm1 0) 3 = some 2 ∧
    fieldAfter (.fsub 3 1 2) (withF 0x10000000000000000 1 0) 3 = some 0xFFFFFFFFFFFFFFFF := by decide
/-- C7. -/
theorem test_fsub_nc : fsubDatapath 0 cM192 = 0xFFFFFFFFFFFFFFFFFFFFFFFFFFFFFFFF0000000000000000 := by decide
/-- D1, D4. -/
theorem test_fneg : fieldAfter (.fneg 5 1) (withF 0 0 0) 5 = some 0 ∧
    fieldAfter (.fneg 5 1) (withF cH 0 0) 5 = some cHm := by decide
/-- D5, D6. -/
theorem test_fneg_nc : fnegDatapath cM192 = 0xFFFFFFFFFFFFFFFFFFFFFFFFFFFFFFFF0000000000000000 ∧ fnegDatapath cP = 0 := by
  decide
/-- E3, E5. -/
theorem test_ftwice : fieldAfter (.ftwice 5 1) (withF cT191 0 0) 5 = some cK ∧
    fieldAfter (.ftwice 5 1) (withF cH 0 0) 5 = some 1 := by decide
/-- E7. -/
theorem test_ftwice_nc : ftwiceDatapath cM192 = 0xFFFFFFFFFFFFFFFF := by decide
/-- F6, F7. -/
theorem test_fhalf : fieldAfter (.fhalf 3 1) (withF (cPm1 - 1) 0 0) 3 = some cPm1 ∧
    fieldAfter (.fhalf 3 1) (withF cH 0 0) 3 = some cQ := by decide
/-- F8, F9. -/
theorem test_fhalf_nc : fhalfDatapath cM192 = 0xFFFFFFFFFFFFFFFFFFFFFFFFFFFFFFFF7FFFFFFFFFFFFFFF ∧
    fhalfDatapath cP = cP := by decide
/-- G5, G7. -/
theorem test_fmul : fieldAfter (.fmul 4 1 2) (withF cM192 cM192 0) 4 = some 0x00000000_00000001_00000000_00000000_00000000_00000000 ∧
    fieldAfter (.fmul 4 1 2) (withF 3 cI3 0) 4 = some 1 := by decide
/-- H4, H6. -/
theorem test_fsqr : fieldAfter (.fsqr 6 1) (withF 0x1000000000000000000000000 0 0) 6 = some cK ∧
    fieldAfter (.fsqr 1 1) (withF cH 0 0) 1 = some cQ := by decide
/-- J5, J1. -/
theorem test_fsqrn : fieldAfter (.fsqrn 2 1) (withF 2 0 9) 2 =
      some 0x00000000_00000002_00000000_00000003_00000000_00000002 ∧
    fieldAfter (.fsqrn 2 1) (withF 2 0 1) 2 = some 4 := by decide +kernel
/-- J10, J12: PRECOND, and F[RD] is not written. -/
theorem test_fsqrn_precond :
    seen (fun t => (t.statusWord, t.errInfo, t.f[1])) (exec (.fsqrn 1 1) (withF 7 0 0)) = some (0x22, 0x48880000, 7) ∧
    seen (fun t => t.statusWord) (exec (.fsqrn 2 1) (withF 7 0 0x80000000)) = some 0x22 := by decide
/-- K6, K3. -/
theorem test_fred : fieldAfter (.fred 0 1) (withX cM384 0) 0 = some 0x00000000_00000001_00000000_00000002_00000000_00000000 ∧
    fieldAfter (.fred 0 1) (withX (cPExtM1 + 1) 0) 0 = some 0 := by decide
/-- K10: mixed words. -/
theorem test_fred_mixed : fredResult
      0x00000000000000000000000000000012_3456789ABCDEF0000000000000000000_000000000000000000000000DEADBEEF =
    0x00000000000000123456789ABCDEF0123456789B9B8CAEEF := by decide
/-- L6, L8: in place, and the fold that overflows. -/
theorem test_fred32 : fieldAfter (.fred32 1) (withF cP 0 2) 1 = some 0x00000002_00000000_00000002 ∧
    fieldAfter (.fred32 1) (withF cM192 0 0xFFFFFFFF) 1 = some 0x00000000_00000000_00000001_00000000_00000000_FFFFFFFF := by
  decide
/-- L9: the carry word at offsets 0 and 2 (90_conflicts.md C1). -/
theorem test_fred32_offsets : fred32Result 0xFFFFFFFF 0 = 0xFFFFFFFF_00000000_FFFFFFFF := by decide
/-- M5, M2. -/
theorem test_fcanon : fieldAfter (.fcanon 1 1) (withF cM192 0 0) 1 = some 0x10000000000000000 ∧
    fieldAfter (.fcanon 2 1) (withF cPm1 0 0) 2 = some cPm1 := by decide
/-- N3, N2. -/
theorem test_xadd : extAfter (.xadd 3 1 2) (withX cT383 cT383) 3 = some cKX ∧
    extAfter (.xadd 3 1 2) (withX cPExtM1 cPExtM1) 3 = some (cPExtM1 - 1) := by decide
/-- N5. -/
theorem test_xadd_nc : xaddDatapath cM384 cM384 = cKX - 2 := by decide
/-- O3, O4: the operand order. -/
theorem test_xsub : extAfter (.xsub 2 1 2) (withX 0 cPExtM1) 2 = some 1 ∧
    extAfter (.xsub 3 1 2) (withX 7 3) 3 = some 4 := by decide
/-- O5. -/
theorem test_xsub_nc : xsubDatapath 0 cM384 = cPExtM1 + 2 := by decide

/-! One step of the block: faults, the port, reset -/

/-- Q1. -/
theorem test_step_illegal : statusAfter { withF 0 0 0 with inputs := [.write 0x000 0] } = some (0x12, 0) := by decide
/-- Q15: ILLEGAL wins over PRECOND. -/
theorem test_step_illegal_wins : statusAfter { withF 0 0 0 with inputs := [.write 0x000 0x49088000] } =
    some (0x12, 0x49088000) := by decide
/-- Q16: accepted, BUSY = 1. -/
theorem test_step_accepted : statusAfter { withF 0 0 1 with inputs := [.write 0x000 0x49080000] } = some (0x01, 0) := by
  decide
/-- Q23. -/
theorem test_step_busycmd : statusAfter { busy with inputs := [.write 0x000 0] } = some (0x33, 0) := by decide
/-- Program 6, outcome (a): STATUS has BUSY still 1. -/
theorem test_step_portbusy : statusAfter { busy with inputs := [.write 0x128 5] } = some (0x43, 0x128) := by decide
/-- Program 6, outcome (b): word 0 of F5. -/
theorem test_step_lands : seen (fun t => (t.f[5], t.statusWord)) (step { withF 0 2 0 with inputs := [.write 0x128 5] }) =
    some (5, 0) := by decide
/-- The completion of program 6's fmul: F4 = 1. -/
theorem test_step_completes : seen (fun t => (t.f[4], t.statusWord)) (step busy) = some (1, 0) := by decide
/-- Q24, program 5: a command is ignored while ERR = 1, and `ldarg` lands. -/
theorem test_step_err :
    statusAfter { withF 3 0 0 with err := true, errCode := .precond, errInfo := 0x4A080000,
                                   inputs := [.write 0x000 0x0A088000] } = some (0x22, 0x4A080000) ∧
    seen (fun t => t.arg) (step { withF 3 0 0 with err := true, errCode := .precond, inputs := [.write 0x001 5] }) =
      some 5 := by decide
/-- A read of word 1 of F1, and of a reserved address in its slot (20_memory.md R62, R64). -/
theorem test_step_read :
    seen (fun t => t.reply) (step { withF 0xAAAAAAAA00000000 0 0 with inputs := [.read 0x109] }) = some (some 0xAAAAAAAA) ∧
    seen (fun t => t.reply) (step { withF cM192 0 0 with inputs := [.read 0x10E] }) = some (some 0) := by decide
/-- Reset while BUSY (70_reset_and_hazards.md R271). -/
theorem test_step_reset : seen (fun t => (t.statusWord, t.pending, t.argWritten))
    (step { busy with inputs := [.assertReset] }) = some (0, none, false) := by decide

/-- R258(a), D21: a command that reads registers nobody has written is accepted, and UNINIT is recorded; with every operand
written it is not. -/
theorem test_step_uninit :
    seen (fun t => (t.statusWord, t.uninit)) (step { State.reset with inputs := [.write 0x000 0x09890000] }) =
      some (1, true) ∧
    seen (fun t => (t.statusWord, t.uninit)) (step { withF 1 2 0 with inputs := [.write 0x000 0x09890000] }) =
      some (1, false) := by decide
/-- R258(a): the outcome of that run is UNINIT, and stays so when the command has completed; with every operand written
it is not (R283). -/
theorem test_uninit_outcome :
    seen State.outcome (step { State.reset with inputs := [.write 0x000 0x09890000] }) = some .uninit ∧
    seen State.outcome (Host.Core.run Sys2Proof.core 2 (State.reset.withFetchWord 32 0x09890000)) = some .uninit ∧
    seen State.outcome (step { withF 1 2 0 with inputs := [.write 0x000 0x09890000] }) = some .going ∧
    busy.complete.outcome = .completed busy.complete.observe := ⟨rfl, rfl, rfl, rfl⟩
/-- R123: FSUB with RD = RS1 = RS2 of a non-canonical value, under any NONCANON; R126: the datapath of an even one. -/
theorem test_settled : fieldAfter (.fsub 1 1 1) (withF cM192 0 0) 1 = some 0 ∧
    fhalfDatapath (cM192 - 1) = 0x7FFFFFFFFFFFFFFFFFFFFFFFFFFFFFFFFFFFFFFFFFFFFFFF := by decide
/-- The last window word's address in ERRINFO (R245), and PORTBUSY's number 4 in STATUS (R34). -/
theorem test_step_portbusy_ext : statusAfter { busy with inputs := [.write 0x23B 5] } = some (0x43, 0x23B) := by decide
/-- R283: an idle block has ended once no port access is left, whatever else is to come; a read left, or BUSY = 1, and it
has not. -/
theorem test_ended : ({ withF 0 0 0 with inputs := [.blockStep, .assertReset] } : State).ended = true ∧
    ({ withF 0 0 0 with inputs := [.blockStep, .read 2] } : State).ended = false ∧
    ({ withF 0 0 0 with inputs := [.write 0 0] } : State).ended = false ∧ busy.ended = false := by decide
/-- R283: a run whose final STATUS has ERR = 1 is a faulted run, also where reset comes after its end. -/
theorem test_faulted_run :
    ({ (withF 0 0 0).raiseFault .illegal 0 with inputs := [.assertReset] } : State).faultedRun = true ∧
    ({ withF 0 0 0 with inputs := [.assertReset] } : State).faultedRun = false := by decide

/-- Every row's match value but fsqrn's is accepted as the first command after reset. -/
theorem test_first_command_runs : ∀ w ∈ [0x08000000, 0x10000000, 0x18000000, 0x20000000, 0x28000000, 0x30000000, 0x38000000,
      0x40000000, 0x50000000, 0x58000000, 0x60000000, 0x68000000, 0x70000000],
    seen (fun t => t.statusWord) (step (State.reset.withFetchWord 32 w)) = some 1 := by decide

/-- So does fsqrn's, whose ARG is then unwritten: its count is a free value, and the answer is a next state either way. -/
theorem test_first_fsqrn_runs : ∃ t, step (State.reset.withFetchWord 32 0x48000000) = .next t := ⟨_, rfl⟩

/-- The decoder reads the row's command from the table's numbering. -/
theorem test_table_word : decodeTableWord 32 0x58800000 = some (.fred32 1) ∧ decodeTableWord 32 0 = none := by decide

/-! Witnesses: states and operands that meet each obligation's hypotheses, at the boundaries of each clause -/

theorem wit_DecodeInvertsEncode : (Instr.fred 15 3).wellFormed = true ∧ (Instr.xsub 0 3 3).wellFormed = true := by decide

/-- Q19. -/
theorem wit_EncodeInvertsDecode : decode 0x71998000 = .ok (.xsub 3 3 3) := rfl

theorem wit_MaskAndMatch : (0x57980000 : Word) &&& 0xF867FFFF = 0x50000000 ∧
    (0x71998000 : Word) &&& 0xFE667FFF = 0x70000000 := by decide

/-- A word of each kind: the opcodes 0x00, 0x0F and 0x1F, the lowest and highest bit of ZERO, and each NONE and X field. -/
theorem wit_IllegalWords : State.reset.ready ∧ IllegalWord 0x00000000 ∧ IllegalWord 0x78000000 ∧ IllegalWord 0xF8000000 ∧
    IllegalWord 0x08000001 ∧ IllegalWord 0x08004000 ∧ IllegalWord 0x13208000 ∧ IllegalWord 0x60078000 ∧
    IllegalWord 0x58880000 ∧ IllegalWord 0x50200000 ∧ IllegalWord 0x6A000000 ∧ IllegalWord 0x68020000 ∧
    IllegalWord 0x70200000 := by
  refine ⟨?_, ?_, ?_, ?_, ?_, ?_, ?_, ?_, ?_, ?_, ?_, ?_, ?_⟩ <;> decide

theorem wit_EveryWord : IllegalWord 0x00000000 ∧ ¬ IllegalWord 0x08000000 ∧
    ¬ IllegalWord 0x71998000 := by decide

/-- A ready block whose f1 is canonical and f2 is not, and one with both canonical: the hypotheses of the single-width
commands, in each clause. -/
theorem wit_FieldCommands : (withF cPm1 cM192 0).ready ∧ (withF cPm1 cM192 0).uninitRead (.fadd 3 1 2) = false ∧
    State.reset.ready ∧ State.reset.uninitRead (.fadd 3 1 2) = true ∧
    ((withF cPm1 cM192 0).fieldOperand 1).toNat < primeP ∧
    ¬ ((withF cPm1 cM192 0).fieldOperand 2).toNat < primeP ∧ ((withF cPm1 cP 0).fieldOperand 2).toNat = primeP ∧
    (1 = (1 : FReg) ∧ (1 : FReg) = 1) ∧ ¬ ((withF cM192 0 0).fieldOperand 1).toNat < primeP := by decide

/-- NONCANON has one of its two values, so one of the last two clauses of AddTypeValue is met. -/
theorem wit_nonCanon : Config.nonCanon = .datapath ∨ Config.nonCanon = .any := by
  cases Config.nonCanon <;> simp

/-- The counts 1 and 2^31 − 1. -/
theorem wit_Fsqrn : (withF 0 0 1).ready ∧ 0 < sint32 (withF 0 0 1).argOperand ∧
    0 < sint32 (withF 0 0 0x7FFFFFFF).argOperand := by decide

theorem wit_Fred : (withX cM384 0).ready ∧ extIndex 0 = some 0 ∧ extIndex 3 = some 3 := by decide

theorem wit_Xadd : (withX cPExtM1 cM384).ready ∧ extIndex 3 = some 3 ∧ extIndex 1 = some 1 ∧ extIndex 2 = some 2 ∧
    ((withX cPExtM1 cM384).extOperand 1).toNat < primePExt ∧
    ¬ ((withX cPExtM1 cM384).extOperand 2).toNat < primePExt := by decide

theorem wit_IllFormed : State.reset.ready ∧ (Instr.fred 0 4).wellFormed = false ∧
    (Instr.xadd 15 0 0).wellFormed = false := by decide

/-- The counts 0, −1 and −2^31, and a run that meets the second clause. -/
theorem wit_Precond : (withF 0 0 0).ready ∧ sint32 (withF 0 0 0).argOperand ≤ 0 ∧
    sint32 (withF 0 0 0xFFFFFFFF).argOperand ≤ 0 ∧ sint32 (withF 0 0 0x80000000).argOperand ≤ 0 ∧
    (withF 0 0 0).errCode ≠ .precond ∧
    seen (fun t => t.errCode) (exec (.fsqrn 2 1) (withF 0 0 0)) = some .precond := by decide

/-- A block with a fault recorded, also one with a command still in flight. -/
theorem wit_Err : ((withF 0 0 0).raiseFault .illegal 0).err = true ∧ (busy.raiseFault .busyCmd 0).err = true ∧
    (busy.raiseFault .busyCmd 0).pending.isSome = true ∧ State.reset.err = false := by decide

theorem wit_Busy : busy.err = false ∧ busy.pending = some ⟨0x3A118000, .fmul 4 2 cH, false⟩ := by decide

/-- ARG, and the first and last word of the first and last register of each window. -/
theorem wit_Guarded : GuardedAddr 0x001 ∧ GuardedAddr 0x100 ∧ GuardedAddr 0x105 ∧ GuardedAddr 0x17D ∧
    GuardedAddr 0x200 ∧ GuardedAddr 0x20B ∧ GuardedAddr 0x23B :=
  ⟨.inl rfl, .inr (.inl ⟨0, 0, rfl⟩), .inr (.inl ⟨0, 5, rfl⟩), .inr (.inl ⟨15, 5, rfl⟩), .inr (.inr ⟨0, 0, rfl⟩),
    .inr (.inr ⟨0, 11, rfl⟩), .inr (.inr ⟨3, 11, rfl⟩)⟩

theorem wit_Sticky : (busy.raiseFault .busyCmd 7).err = true ∧ (busy.raiseFault .busyCmd 7).nextEvent ≠ .assertReset ∧
    ∃ t, step (busy.raiseFault .busyCmd 7) = .next t := ⟨by decide, by decide, _, rfl⟩

/-- An acceptance, which changes the slot, and a command met by a full slot. -/
theorem wit_ExecChanges : seen (fun t => t.pending.isSome) (exec (.fadd 3 1 2) (withF 1 2 0)) = some true ∧
    (withF 1 2 0).pending = none ∧ seen (fun t => t.pending) (exec (.fadd 3 1 2) busy) = some busy.pending := by decide

theorem wit_StepRuns : (State.reset.withFetchWord 32 0x09890000).inputs = [.write 0x000 0x09890000] ∧
    (State.reset.withFetchWord 32 0x09890000).resetAsserted = false ∧ decode 0x09890000 = .ok (.fadd 3 1 2) ∧
    decodeTableWord 32 0x09890000 = some (.fadd 3 1 2) := by decide

/-- A write that is no command, met with reset released and asserted; the completion step, given and with no input left,
with a command of each destination and with none; reset released. -/
theorem wit_StepRunsOthers : busy.uninit = false ∧ State.reset.assertReset.uninit = false ∧
    ({ busy with inputs := [.write 0x128 5] } : State).inputs = .write 0x128 5 :: [] ∧
    busy.resetAsserted = false ∧ State.reset.assertReset.resetAsserted = true ∧ busy.inputs = [] ∧
    ({ busy with inputs := [.blockStep, .read 2] } : State).inputs = .blockStep :: [.read 2] ∧
    busy.pending = some ⟨0x3A118000, .fmul 4 2 cH, false⟩ ∧ (Job.fmul 4 2 cH).result 0 = .field 4 (fmulResult 2 cH) ∧
    (Job.xadd 3 1 0).result 0 = .ext 3 (xaddResult 1 0 0) ∧ State.reset.pending = none ∧
    ({ State.reset.assertReset with inputs := [.releaseReset] } : State).inputs = .releaseReset :: [] :=
  ⟨rfl, rfl, rfl, rfl, rfl, rfl, rfl, rfl, rfl, rfl, rfl, rfl⟩

theorem wit_StepKeeps : busy.inv = true ∧ (∃ t, step busy = .next t) ∧ (State.reset.assertReset.inv = true) :=
  ⟨by decide, ⟨_, rfl⟩, rfl⟩

/-- A completion that changes f4, and host writes that change f5, x0 and ARG; an extended completion that changes x3. -/
theorem wit_RegistersChange :
    seen (fun t => decide (t.f[4] ≠ busy.f[4])) (step busy) = some true ∧
    seen (fun t => decide (t.f[5] ≠ 0)) (step { withF 0 0 0 with inputs := [.write 0x128 5] }) = some true ∧
    seen (fun t => decide (t.x[0] ≠ 0)) (step { withF 0 0 0 with inputs := [.write 0x200 5] }) = some true ∧
    seen (fun t => t.arg) (step { withF 0 0 0 with inputs := [.write 0x001 5] }) = some 5 ∧
    seen (fun t => decide (t.x[3] ≠ 0)) (step { withF 0 0 0 with pending := some ⟨0x69890000, .xadd 3 1 0, false⟩ }) =
      some true := by decide

theorem wit_Completes : busy.uninit = false ∧ busy.pending.isSome = true ∧
    Event.assertReset ∉ ({ busy with inputs := [.read 2, .write 0 0, .releaseReset] } : State).inputs := by decide

theorem wit_ResultDepends : (Pending.mk 0x3A118000 (.fmul 4 2 cH) false).uninit = false ∧ busy.pending = ({ busy with arg := 5 } : State).pending ∧ busy.pending.isSome = true ∧
    busy.draws = ({ busy with arg := 5 } : State).draws := by decide

/-- The first word of f0 and the last of f15. -/
theorem wit_FieldWord : (withF 0 0 0).pending = none ∧ (withF 0 0 0).resetAsserted = false ∧ IsFieldWordAddr 0x100 0 0 ∧
    IsFieldWordAddr 0x17D 15 5 ∧ (withF 0 0 0).fMarked 15 = true := by decide

/-- The first word of x0 and the last of x3. -/
theorem wit_ExtWord : (withF 0 0 0).pending = none ∧ (withF 0 0 0).resetAsserted = false ∧ IsExtWordAddr 0x200 0 0 ∧
    IsExtWordAddr 0x23B 3 11 ∧ (withF 0 0 0).xMarked 3 = true := by decide

theorem wit_UnspecifiedReads : State.reset.assertReset.resetAsserted = true ∧ IsFieldWordAddr 0x17D 15 5 ∧
    IsExtWordAddr 0x23B 3 11 ∧ busy.pending ≠ none ∧ State.reset.fMarked 15 = false ∧ State.reset.xMarked 3 = false ∧
    (0x001 : PortAddr).toNat = 1 ∧ State.reset.argWritten = false :=
  ⟨rfl, rfl, rfl, by decide, by decide, by decide, rfl, rfl⟩

theorem wit_ControlReads : busy.resetAsserted = false ∧ busy.argWritten = true := by decide

/-- The ends of every reserved range, and the addresses next to them that are not reserved. -/
theorem wit_Reserved : ReservedAddr 0x004 ∧ ReservedAddr 0x0FF ∧ ReservedAddr 0x106 ∧ ReservedAddr 0x17F ∧
    ReservedAddr 0x180 ∧ ReservedAddr 0x1FF ∧ ReservedAddr 0x20C ∧ ReservedAddr 0x23F ∧ ReservedAddr 0x240 ∧
    ReservedAddr 0xFFF ∧ ¬ ReservedAddr 0x003 ∧ ¬ ReservedAddr 0x100 ∧ ¬ ReservedAddr 0x17D ∧ ¬ ReservedAddr 0x200 ∧
    ¬ ReservedAddr 0x23B := by
  refine ⟨?_, ?_, ?_, ?_, ?_, ?_, ?_, ?_, ?_, ?_, ?_, ?_, ?_, ?_, ?_⟩ <;> decide

theorem wit_ReadStep : ({ busy with inputs := [.read 0x002] } : State).uninit = false ∧
    ({ busy with inputs := [.read 0x002] } : State).inputs = .read 0x002 :: [] := ⟨rfl, rfl⟩

theorem wit_HostLoads : (withF 0 0 0).uninit = false ∧ (withF 0 0 0).pending = none ∧ (withF 0 0 0).resetAsserted = false ∧
    ({ withF 0 0 0 with inputs := ldf 15 cM192 ++ [.read 2] } : State).inputs = ldf 15 cM192 ++ [.read 2] ∧
    ({ withF 0 0 0 with inputs := ldx 3 cM384 } : State).inputs = ldx 3 cM384 ++ [] := ⟨rfl, rfl, rfl, rfl, rfl⟩

theorem wit_AssertReset : ({ busy with inputs := [.assertReset] } : State).uninit = false ∧
    ({ busy with inputs := [.assertReset] } : State).inputs = .assertReset :: [] := ⟨rfl, rfl⟩

theorem wit_PortIsDead : ({ State.reset.assertReset with inputs := [.write 0x001 5] } : State).resetAsserted = true ∧
    ({ State.reset.assertReset with inputs := [.write 0x001 5] } : State).nextEvent = .write 0x001 5 ∧
    ({ State.reset.assertReset with inputs := [.read 0x002] } : State).nextEvent = .read 0x002 ∧
    ∃ t, step { State.reset.assertReset with inputs := [.write 0x001 5] } = .next t := ⟨rfl, rfl, rfl, _, rfl⟩

theorem wit_Marks : busy.nextEvent ≠ .assertReset ∧ busy.fMarked 0 = true ∧ busy.xMarked 0 = true ∧
    busy.argWritten = true ∧ (Job.fmul 4 2 cH).result 0 = .field 4 (fmulResult 2 cH) ∧
    (Job.xadd 3 1 0).result 0 = .ext 3 (xaddResult 1 0 0) ∧ ∃ t, step busy = .next t :=
  ⟨by decide, by decide, by decide, rfl, rfl, rfl, _, rfl⟩

/-- f5 and x3 with the given words written since reset, and nothing else written. -/
def missing (fBits : BitVec 6) (xBits : BitVec 12) : State :=
  { State.reset with fWritten := (Vector.replicate 16 0).set 5 fBits, xWritten := (Vector.replicate 4 0).set 3 xBits }

/-- With one word missing its write sets the mark; with two it does not. -/
theorem wit_MarksSet :
    (missing 0x1F 0x7FF).fMarked 5 = false ∧ (missing 0x1F 0x7FF).xMarked 3 = false ∧
    seen (fun t => t.fMarked 5) (step { missing 0x1F 0 with inputs := [.write 0x12D 1] }) = some true ∧
    seen (fun t => t.fMarked 5) (step { missing 0x0F 0 with inputs := [.write 0x12D 1] }) = some false ∧
    seen (fun t => t.xMarked 3) (step { missing 0 0x7FF with inputs := [.write 0x23B 1] }) = some true ∧
    seen (fun t => t.xMarked 3) (step { missing 0 0x3FF with inputs := [.write 0x23B 1] }) = some false ∧
    seen (fun t => t.argWritten) (step { State.reset with inputs := [.write 0x001 1] }) = some true := by
  refine ⟨?_, ?_, ?_, ?_, ?_, ?_, ?_⟩ <;> decide

/-- A completion that marks its destination, of each kind. -/
theorem wit_MarksCompleted :
    seen (fun t => t.fMarked 4) (step { State.reset with pending := some ⟨0x3A118000, .fmul 4 2 cH, false⟩ }) = some true ∧
    seen (fun t => t.xMarked 3) (step { State.reset with pending := some ⟨0x69890000, .xadd 3 1 0, false⟩ }) = some true := by
  decide

/-- f1, f2, x1 and x2 with the given words written since reset, ARG as given, and nothing else written. -/
def unmarked (f1 f2 : BitVec 6) (x1 x2 : BitVec 12) (arg : Bool) : State :=
  { State.reset with
    fWritten := ((Vector.replicate 16 0).set 1 f1).set 2 f2
    xWritten := ((Vector.replicate 4 0).set 1 x1).set 2 x2
    argWritten := arg }

/-- Each operand form with one operand unmarked (one missing word is enough), and with all marked. -/
theorem wit_UninitRead :
    (unmarked 0 0x3F 0 0 true).uninitRead (.fadd 3 1 2) = true ∧
    (unmarked 0x3F 0x1F 0 0 true).uninitRead (.fsub 3 1 2) = true ∧
    (unmarked 0x3F 0x3F 0 0 false).uninitRead (.fmul 3 1 2) = false ∧
    (unmarked 0x3F 0 0 0 false).uninitRead (.fsqr 3 1) = false ∧
    (unmarked 0x3F 0 0 0 false).uninitRead (.fsqrn 3 1) = true ∧
    (unmarked 0 0 0 0 true).uninitRead (.fsqrn 3 1) = true ∧
    (unmarked 0x3F 0 0 0 true).uninitRead (.fred32 1) = false ∧
    (unmarked 0x3F 0 0 0 true).uninitRead (.fred32 2) = true ∧
    (unmarked 0 0 0xFFF 0 false).uninitRead (.fred 0 1) = false ∧
    (unmarked 0 0 0x7FF 0 false).uninitRead (.fred 0 1) = true ∧
    (unmarked 0 0 0xFFF 0 false).uninitRead (.xadd 3 1 2) = true ∧
    (unmarked 0 0 0xFFF 0xFFF false).uninitRead (.xsub 3 1 2) = false := by
  refine ⟨?_, ?_, ?_, ?_, ?_, ?_, ?_, ?_, ?_, ?_, ?_, ?_⟩ <;> decide

/-- An acceptance that records UNINIT, one that does not, a rejection that does not, and a state that has it. -/
theorem wit_Uninit :
    seen (fun t => t.uninit) (exec (.fadd 3 1 2) (unmarked 0x3F 0 0 0 true)) = some true ∧
    seen (fun t => t.uninit) (exec (.fadd 3 1 2) (unmarked 0x3F 0x3F 0 0 true)) = some false ∧
    seen (fun t => t.uninit) (exec (.fadd 3 0 0) { busy with fWritten := Vector.replicate 16 0 }) = some false ∧
    extIndex 1 = some 1 ∧ extIndex 2 = some 2 ∧
    ({ busy with uninit := true } : State).uninit = true ∧ (unmarked 0x3F 0 0 0 true).uninitRead (.fadd 3 1 2) = true := by
  refine ⟨?_, ?_, ?_, ?_, ?_, ?_, ?_⟩ <;> decide

/-- The ends of the canonical range, and the counts 1 and 2^31 − 1. -/
theorem wit_FieldLaws : canonical 0 = true ∧ canonical cPm1 = true ∧ 0 < sint32 1 ∧ 0 < sint32 0x7FFFFFFF := by decide

/-- The largest carry word, and the largest values of the two ranges of Correct. -/
theorem wit_Reduction : 2 ^ 32 - 1 < 2 ^ 32 ∧ 2 ^ 193 - 1 < 2 ^ 193 ∧ 2 ^ 192 + 2 ^ 97 - 1 < 2 ^ 192 + 2 ^ 97 := by decide

/-- The ends of the canonical range, and an even value above it. -/
theorem wit_AddTypeLaws : canonical 0 = true ∧ canonical cPm1 = true ∧ canonical (cM192 - 1) = false ∧
    (cM192 - 1).toNat % 2 = 0 := by decide

theorem wit_PipelineLaws : (cP.setWidth 384).toNat = (0 : ExtElement).toNat + 1 * primeP ∧ canonical cPm1 = true := by
  decide

theorem wit_ExtendedAccumulation : extCanonical 0 = true ∧ extCanonical cPExtM1 = true := by decide

end Sys2Proof.Tests
end

section
/-! PROOFS. The reduction pipeline is the remainder modulo P (42_reduce.md R182 to R185), and the multiply family on top
of it (41_multiply.md R161 to R163). -/

namespace Sys2Proof.Machine

open Sys2Proof

/-- Stage 1 keeps the value modulo P (R182(a)): it leaves out a multiple of P, since 2^192 ≡ 2^64 + 1. -/
theorem fold_mod (xx : ExtElement) :
    ((fold xx).1 * 2 ^ 192 + (fold xx).2.toNat) % primeP = xx.toNat % primeP := by
  have hxx : xx.toNat = (fold xx).1 * 2 ^ 192 + (fold xx).2.toNat + primeP *
      ((wordAt xx 6).toNat + (wordAt xx 7).toNat * 2 ^ 32 + (wordAt xx 8).toNat * 2 ^ 64 + (wordAt xx 9).toNat * 2 ^ 96
        + (wordAt xx 10).toNat * (2 ^ 128 + 1) + (wordAt xx 11).toNat * (2 ^ 160 + 2 ^ 32)) := by
    rw [fold_value, primeP_eq, ext_words]
    omega
  rw [hxx, Nat.add_mul_mod_self_left]

/-- Stage 1 adds at most four 192-bit values (R182). -/
theorem fold_value_le (xx : ExtElement) : (fold xx).1 * 2 ^ 192 + (fold xx).2.toNat ≤ 4 * (2 ^ 192 - 1) := by
  have hw (i : Nat) : (wordAt xx i).toNat < 2 ^ 32 := (wordAt xx i).isLt
  have h0 := hw 0; have h1 := hw 1; have h2 := hw 2; have h3 := hw 3; have h4 := hw 4; have h5 := hw 5
  have h6 := hw 6; have h7 := hw 7; have h8 := hw 8; have h9 := hw 9; have h10 := hw 10; have h11 := hw 11
  rw [fold_value]
  omega

/-- The carry of stage 1 is at most 3 (R182(c)). -/
theorem fold_carry_le (xx : ExtElement) : (fold xx).1 ≤ 3 := by
  have := fold_value_le xx
  omega

/-- Stage 2a as one sum, for any carry (R183). -/
theorem carryFold_eq (x : Nat) (z : FieldElement) : carryFold x z = z.toNat + x + x * 2 ^ 64 := by
  rw [fe_words z]
  simp only [carryFold, val, w192_eq, Nat.shiftRight_eq_div_pow]
  omega

/-- Stage 2a of a carry word stays far below 2^193 (R183). -/
theorem carryFold_lt {x : Nat} (z : FieldElement) (hx : x < 2 ^ 32) : carryFold x z < 2 ^ 192 + 2 ^ 97 := by
  have := z.isLt
  rw [carryFold_eq]
  omega

/-- Stage 2a keeps the value modulo P (R183). -/
theorem carryFold_mod (x : Nat) (z : FieldElement) : carryFold x z % primeP = (x * 2 ^ 192 + z.toNat) % primeP := by
  have h : x * 2 ^ 192 + z.toNat = carryFold x z + primeP * x := by
    rw [carryFold_eq, primeP_eq]
    omega
  rw [h, Nat.add_mul_mod_self_left]

/-- Stage 2b is the single corrective subtraction (R184, R12): the top-word test is implied by the comparison, and adding
2^64 + 1 subtracts P modulo 2^192. -/
theorem correct_eq_subPOnce192 {v : Nat} (hv : v < 2 ^ 193) : correct v = subPOnce192 v := by
  have hzl : (BitVec.ofNat 192 v).toNat = v % 2 ^ 192 := BitVec.toNat_ofNat v 192
  have hov : v >>> 192 = 1 ↔ v ≥ 2 ^ 192 := by rw [Nat.shiftRight_eq_div_pow]; omega
  have htop : (wordAt (BitVec.ofNat 192 v) 5 = topWordP ∧ v % 2 ^ 192 ≥ primeP) ↔ v % 2 ^ 192 ≥ primeP :=
    ⟨And.right, fun h => ⟨topWord_of_ge _ (hzl ▸ h), h⟩⟩
  rw [← BitVec.toNat_inj, subPOnce192_toNat v hv]
  simp only [correct, hzl, hov, htop]
  rw [primeP_eq]
  split_ifs with hc
  · rw [BitVec.toNat_ofNat]
    omega
  · rw [hzl]
    omega

/-- Below 2P, stage 2b is the remainder modulo P (R184). -/
theorem correct_toNat {v : Nat} (hv : v < 2 ^ 192 + 2 ^ 97) : (correct v).toNat = v % primeP := by
  rw [correct_eq_subPOnce192 (by omega), subPOnce192_toNat v (by omega), sub_once_eq_mod v (by rw [primeP_eq]; omega)]

/-- Stage 2 of a carry word over a field element is the remainder modulo P (R183, R184). -/
theorem correct_carryFold_toNat {x : Nat} (z : FieldElement) (hx : x < 2 ^ 32) :
    (correct (carryFold x z)).toNat = (x * 2 ^ 192 + z.toNat) % primeP := by
  rw [correct_toNat (carryFold_lt z hx), carryFold_mod]

/-- Reduce is the remainder modulo P (R185). -/
theorem reduce_toNat (xx : ExtElement) : (reduce xx).toNat = xx.toNat % primeP := by
  have hc := fold_carry_le xx
  rw [reduce, correct_carryFold_toNat _ (by omega), fold_mod]

/-- FMUL (R161). -/
theorem fmulResult_toNat (a b : FieldElement) : (fmulResult a b).toNat = a.toNat * b.toNat % primeP := by
  rw [fmulResult, reduce_toNat, mul384_toNat]

/-- FSQR (R162). -/
theorem fsqrResult_toNat (a : FieldElement) : (fsqrResult a).toNat = a.toNat ^ 2 % primeP := by
  rw [fsqrResult, reduce_toNat, sqr384_eq_mul384, mul384_toNat, Nat.pow_two]

/-- k squarings after the first (R163). -/
theorem squareTimes_fsqrResult_toNat (a : FieldElement) (k : Nat) :
    (squareTimes k (fsqrResult a)).toNat = a.toNat ^ 2 ^ (k + 1) % primeP := by
  induction k with
  | zero => exact fsqrResult_toNat a
  | succ k ih =>
    calc (fsqrResult (squareTimes k (fsqrResult a))).toNat
        = (a.toNat ^ 2 ^ (k + 1) % primeP) ^ 2 % primeP := by rw [fsqrResult_toNat, ih]
      _ = a.toNat ^ 2 ^ (k + 1 + 1) % primeP := by rw [← Nat.pow_mod, ← Nat.pow_mul, ← Nat.pow_succ]

/-- FSQRN for a count that R163 allows. -/
theorem fsqrnResult_toNat (a : FieldElement) {arg : Word} (h : 0 < sint32 arg) :
    (fsqrnResult a arg).toNat = a.toNat ^ 2 ^ (sint32 arg).toNat % primeP := by
  have hn : (sint32 arg).toNat - 1 + 1 = (sint32 arg).toNat := by omega
  calc (fsqrnResult a arg).toNat
      = a.toNat ^ 2 ^ ((sint32 arg).toNat - 1 + 1) % primeP := squareTimes_fsqrResult_toNat a _
    _ = a.toNat ^ 2 ^ (sint32 arg).toNat % primeP := by rw [hn]

end Sys2Proof.Machine
end

section
/-! PROOFS. The add-type commands on canonical inputs: each result is its contract's remainder modulo P, for every draw
(40_field_addsub.md R121 to R126), and the field laws (00_scope.md R15). -/

namespace Sys2Proof.Machine

open Sys2Proof

/-- The correction of a sum below 2P is its remainder (R12). -/
theorem subPOnce192_toNat_mod {s : Nat} (h : s < 2 * primeP) : (subPOnce192 s).toNat = s % primeP := by
  have h193 : s < 2 ^ 193 := by rw [primeP_eq] at h; omega
  rw [subPOnce192_toNat s h193, sub_once_eq_mod s h]

/-- FADD's contract (R121). -/
theorem faddResult_toNat {a b : FieldElement} (n : Nat) (ha : a.toNat < primeP) (hb : b.toNat < primeP) :
    (faddResult a b n).toNat = (a.toNat + b.toNat) % primeP := by
  rw [faddResult, nonCanonField_canonical _ n ((canonical_and_iff a b).2 ⟨ha, hb⟩), faddDatapath,
    subPOnce192_toNat_mod (by omega)]

/-- FADD1's contract (R122). -/
theorem fadd1Result_toNat {a : FieldElement} (n : Nat) (ha : a.toNat < primeP) :
    (fadd1Result a n).toNat = (a.toNat + 1) % primeP := by
  rw [fadd1Result, nonCanonField_canonical _ n ((canonical_iff a).2 ha), fadd1Datapath,
    subPOnce192_toNat_mod (by omega)]

/-- FSUB's contract (R123). -/
theorem fsubResult_toNat (one : Bool) {a b : FieldElement} (n : Nat) (ha : a.toNat < primeP) (hb : b.toNat < primeP) :
    (fsubResult one a b n).toNat = (((a.toNat : Int) - b.toNat) % primeP).toNat := by
  rw [fsubResult_settled n (.inl ⟨ha, hb⟩), fsubDatapath_toNat]
  rw [primeP_eq] at *
  split <;> omega

/-- FNEG's contract (R124). -/
theorem fnegResult_toNat {a : FieldElement} (n : Nat) (ha : a.toNat < primeP) :
    (fnegResult a n).toNat = ((-(a.toNat : Int)) % primeP).toNat := by
  rw [fnegResult, nonCanonField_canonical _ n ((canonical_iff a).2 ha), fnegDatapath_toNat]
  rw [primeP_eq] at *
  split <;> omega

/-- FTWICE's contract (R125). -/
theorem ftwiceResult_toNat {a : FieldElement} (n : Nat) (ha : a.toNat < primeP) :
    (ftwiceResult a n).toNat = 2 * a.toNat % primeP := by
  rw [ftwiceResult, nonCanonField_canonical _ n ((canonical_iff a).2 ha), ftwiceDatapath_toNat,
    sub_once_eq_mod _ (by omega)]

/-- FHALF's contract (R126): an odd a is halved as a + P. -/
theorem fhalfResult_toNat {a : FieldElement} (n : Nat) (ha : a.toNat < primeP) :
    (fhalfResult a n).toNat = a.toNat * ((primeP + 1) / 2) % primeP := by
  rw [fhalfResult, nonCanonField_canonical _ n ((canonical_iff a).2 ha), fhalfDatapath_toNat]
  rw [primeP_eq] at *
  split <;> omega

/-- (P + 1)/2 is the inverse of 2 (R15). -/
theorem two_mul_half_mod : 2 * ((primeP + 1) / 2) % primeP = 1 := by decide

/-- A result that is the remainder of an integer modulo P meets its field law (00_scope.md R15). -/
theorem fieldLaw_of_emod {z : FieldElement} {m : Int} (h : z.toNat = (m % primeP).toNat) : FieldLaw z m := by
  have hpos : (0 : Int) < primeP := by decide
  have hz : (z.toNat : Int) = m % primeP := by rw [h, Int.toNat_of_nonneg (Int.emod_nonneg m hpos.ne')]
  exact ⟨by exact_mod_cast hz ▸ Int.emod_lt_of_pos m hpos, hz ▸ Int.mod_modEq m primeP⟩

/-- Settles O60: each result is the remainder of its counterpart modulo P. -/
theorem fieldLawsOnCanonicalInputs : Obligations.FieldLawsOnCanonicalInputs := by
  refine ⟨fun x y one arg n hx hy => ?_, two_mul_half_mod⟩
  rw [canonical_iff] at hx hy
  refine ⟨?add, ?addOne, ?subtract, ?negate, ?twice, ?half, ?multiply, ?square, fun harg => ?squareN⟩
  case add => exact_mod_cast fieldLaw_of_mod (faddResult_toNat n hx hy)
  case addOne => exact_mod_cast fieldLaw_of_mod (fadd1Result_toNat n hx)
  case subtract => exact fieldLaw_of_emod (fsubResult_toNat one n hx hy)
  case negate => exact fieldLaw_of_emod (fnegResult_toNat n hx)
  case twice => exact_mod_cast fieldLaw_of_mod (ftwiceResult_toNat n hx)
  case half => exact_mod_cast fieldLaw_of_mod (fhalfResult_toNat n hx)
  case multiply => exact_mod_cast fieldLaw_of_mod (fmulResult_toNat x y)
  case square => exact_mod_cast fieldLaw_of_mod (fsqrResult_toNat x)
  case squareN => exact_mod_cast fieldLaw_of_mod (fsqrnResult_toNat x harg)

end Sys2Proof.Machine
end

section
/-! PROOFS. A word that decodes is the encoding of a legal command (30_encoding.md R97, R105): each row of R91's table
builds a command whose encoding has the row's opcode and the fields it was built from. -/

namespace Sys2Proof

/-! What each operand class accepts (R91, R95, R96). -/

@[simp] theorem fieldError_f (r : Fin 16) : fieldError .f r = none := rfl

@[simp] theorem fieldError_x_eq_none (r : Fin 16) : fieldError .x r = none ↔ r.val < 4 := by simp [fieldError]

@[simp] theorem fieldError_none_eq_none (r : Fin 16) : fieldError .none r = none ↔ r = 0 := by simp [fieldError]

/-- A row that finds nothing wrong with its fields builds a legal command, encoded by the row's opcode and the fields
(R91, R105). -/
theorem commandRow_build {op : BitVec 5} {row : CommandRow} {d a b : Fin 16} (hrow : commandRow op.toNat = some row)
    (herr : row.error d a b = none) :
    encode (row.build d a b) = encodeFields op d a b ∧ (row.build d a b).wellFormed = true := by
  have hop : op = BitVec.ofNat 5 op.toNat := by simp
  unfold commandRow at hrow
  split at hrow
  case h_15 => cases hrow
  all_goals
    next hn =>
    cases hrow
    rw [hop, hn]
    simp only [CommandRow.error, Option.or_eq_none_iff, fieldError_f, fieldError_x_eq_none,
      fieldError_none_eq_none] at herr
    simp [encode, Instr.wellFormed, extFieldLegal, herr]

/-- A word that decodes is the encoding of the command it decodes to, and that command is legal (R97, R105). -/
theorem encode_of_decode {w : Word} {i : Instr} (h : decode w = .ok i) : encode i = w ∧ i.wellFormed = true := by
  obtain ⟨row, hrow, hzero, herr, rfl⟩ := decode_ok h
  obtain ⟨henc, hwf⟩ := commandRow_build hrow herr
  exact ⟨henc.trans (encodeFields_fields w hzero), hwf⟩

/-- The OP field of an encoded command is its opcode (R92). -/
@[simp] theorem opField_encode (i : Instr) : opField (encode i) = i.opcode := by
  cases i <;> exact opField_encodeFields _ _ _ _

end Sys2Proof
end

section
/-! PROOFS. The invariant of the fault record, the slot and the reset level, kept by every operation of the block and so
by every step (10_state.md R33 to R35 and R38, 41_multiply.md R163, 70_reset_and_hazards.md R270). -/

namespace Sys2Proof.Machine

open Sys2Proof

/-! The shared operations, in a state where reset is not asserted. -/

/-- The invariant looks at the block only, not at the inputs, the reply or the draw number. -/
@[simp] theorem State.inv_consume (s : State) : s.consume.inv = s.inv := rfl

theorem State.raiseFault_keeps_inv {s : State} {code : ErrCode} {info : Word} (hinv : s.inv = true)
    (hr : s.resetAsserted = false) (hcode : code ≠ .none) (hfits : errInfoFits code info = true) :
    (s.raiseFault code info).inv = true := by
  cases he : s.err with
  | true => rwa [State.raiseFault_later code info he]
  | false =>
    rw [State.inv_iff] at hinv
    obtain ⟨-, -, hwf, hun, -⟩ := hinv
    rw [State.raiseFault_first code info he, State.inv_iff]
    exact ⟨by simpa using hcode, hfits, hwf, hun, by simp [hr]⟩

theorem State.launch_keeps_inv {s : State} {i : Instr} {job : Job} (hinv : s.inv = true)
    (hr : s.resetAsserted = false) (hwf : Pending.wf ⟨encode i, job, s.uninitRead i⟩ = true) :
    (s.launch i job).inv = true := by
  rw [State.inv_iff] at hinv
  obtain ⟨herr, hfits, -, -, -⟩ := hinv
  rw [State.inv_iff]
  simp_all

theorem State.checked_keeps_inv {s taken : State} (word : Word) (hinv : s.inv = true)
    (hr : s.resetAsserted = false) (htaken : taken.inv = true) : (s.checked word taken).inv = true := by
  unfold State.checked
  split_ifs
  · exact hinv
  · exact State.raiseFault_keeps_inv hinv hr (by decide) rfl
  · exact htaken

/-- A register window or ARG address, kept in ERRINFO, is read back as that address (R35). -/
theorem errInfoFits_portBusy {a : PortAddr} (h : GuardedAddr a) : errInfoFits .portBusy (a.setWidth 32) = true := by
  have hlt : (a.setWidth 32).toNat < 4096 := by simp; omega
  have hback : (a.setWidth 32).setWidth 12 = a := by simp
  unfold errInfoFits
  rcases portTarget_guarded h with h | ⟨r, i, h⟩ | ⟨r, i, h⟩ <;> simp [hback, h] <;> omega

theorem State.portWrite_keeps_inv {s landed : State} {a : PortAddr} (ha : GuardedAddr a) (hinv : s.inv = true)
    (hr : s.resetAsserted = false) (hlanded : landed.inv = true) : (s.portWrite a landed).inv = true := by
  unfold State.portWrite
  split_ifs
  · exact State.raiseFault_keeps_inv hinv hr (by decide) (errInfoFits_portBusy ha)
  · exact hlanded

/-- With reset not asserted the invariant asks about the fault record, the slot and UNINIT alone. -/
theorem State.inv_of_same_record {s t : State} (hinv : s.inv = true) (hr : t.resetAsserted = false)
    (herr : t.err = s.err) (hcode : t.errCode = s.errCode) (hinfo : t.errInfo = s.errInfo)
    (hp : t.pending = s.pending) (hu : t.uninit = s.uninit) : t.inv = true := by
  rw [State.inv_iff] at *
  simp_all

/-! The events. -/

/-- The meaning of a command that a word decodes to: the slot gets a legal word with its job, or a fault that fits. -/
theorem exec_keeps_inv {s t : State} {w : Word} {i : Instr} (hdec : decode w = .ok i) (hinv : s.inv = true)
    (hr : s.resetAsserted = false) (h : exec i s = .next t) : t.inv = true := by
  obtain ⟨henc, hwf⟩ := encode_of_decode hdec
  obtain ⟨taken, hexec, hshape⟩ := exec_shape i s
  cases hexec.symm.trans h
  refine State.checked_keeps_inv _ hinv hr ?_
  rcases hshape with ⟨job, rfl, hop, hdest, hcount, -⟩ | ⟨-, hill⟩ | ⟨rd, rs1, rfl, -, rfl⟩
  · refine State.launch_keeps_inv hinv hr ?_
    simp [Pending.wf, henc ▸ hdec, hop, hdest, hcount]
  · simp [hwf] at hill
  · refine State.raiseFault_keeps_inv hinv hr (by decide) ?_
    simp [errInfoFits, henc, hdec]

theorem deliverCommand_keeps_inv {s t : State} {w : Word} (hinv : s.inv = true) (hr : s.resetAsserted = false)
    (h : deliverCommand w s = .next t) : t.inv = true := by
  unfold deliverCommand at h
  split at h
  · next i hdec => exact exec_keeps_inv hdec hinv hr h
  · next hdec =>
    cases h
    exact State.checked_keeps_inv w hinv hr
      (State.raiseFault_keeps_inv hinv hr (by decide) (by simp [errInfoFits, hdec]))

theorem hostWrite_keeps_inv {s t : State} {a : PortAddr} {v : Word} (hinv : s.inv = true)
    (hr : s.resetAsserted = false) (h : hostWrite a v s = .next t) : t.inv = true := by
  rcases hostWrite_shape a v s with ⟨hcmd, -⟩ | hnone | ⟨landed, hguard, ha, hlanded⟩
  · exact deliverCommand_keeps_inv hinv hr (hcmd ▸ h)
  · cases hnone.symm.trans h
    exact hinv
  · cases hguard.symm.trans h
    refine State.portWrite_keeps_inv ha hinv hr ?_
    rcases hlanded with ⟨rfl, -⟩ | ⟨r, i, rfl, -⟩ | ⟨r, i, rfl, -⟩ <;>
      exact State.inv_of_same_record hinv hr rfl rfl rfl rfl rfl

/-- Completion empties the slot and leaves the fault record alone; while reset is asserted there is nothing to
complete. -/
theorem State.complete_keeps_inv {s : State} (hinv : s.inv = true) : s.complete.inv = true := by
  cases hp : s.pending with
  | none => rwa [State.complete_idle hp]
  | some p =>
    rw [State.inv_iff] at hinv
    obtain ⟨herr, hfits, -, -, hreset⟩ := hinv
    obtain ⟨he, hc, hi, hu, hp', hr, -⟩ := complete_frame s
    rw [State.inv_iff, he, hc, hi, hp', hr]
    simp_all

theorem State.assertReset_inv (s : State) : s.assertReset.inv = true := by
  simp [State.inv_iff, errInfoFits]

theorem State.releaseReset_keeps_inv {s : State} (hinv : s.inv = true) : s.releaseReset.inv = true :=
  State.inv_of_same_record hinv rfl rfl rfl rfl rfl rfl

/-- Settles O32, by the event the step meets. -/
theorem stepKeepsTheInvariant : Obligations.StepKeepsTheInvariant := by
  intro s t hinv h
  rw [← State.inv_consume] at hinv
  cases hev : s.nextEvent with
  | read a =>
    cases (step_of_read hev).symm.trans h
    exact hinv
  | write a v =>
    cases hr : s.resetAsserted with
    | true =>
      cases (step_of_write_in_reset hev hr).symm.trans h
      exact hinv
    | false => exact hostWrite_keeps_inv hinv hr ((step_of_write hev hr).symm.trans h)
  | blockStep =>
    cases (step_of_blockStep hev).symm.trans h
    exact State.complete_keeps_inv hinv
  | assertReset =>
    cases (step_of_assertReset hev).symm.trans h
    exact State.assertReset_inv _
  | releaseReset =>
    cases (step_of_releaseReset hev).symm.trans h
    exact State.releaseReset_keeps_inv hinv

/-- Settles O31: nothing is recorded, the slot is empty and reset is not asserted. -/
theorem resetMeetsTheInvariant : Obligations.ResetMeetsTheInvariant := by
  unfold Obligations.ResetMeetsTheInvariant
  rw [State.inv_iff]
  exact ⟨rfl, rfl, nofun, nofun, nofun⟩

end Sys2Proof.Machine
end

section
/-! PROOFS. Who writes the registers and sets their marks: in every step but the assertion of reset, a host write of
ARG or of one window word while idle, or the completion of a command (10_state.md R30 to R32 and R42, 20_memory.md R66,
30_encoding.md R103). -/

namespace Sys2Proof.Machine

open Sys2Proof

/-! The marks (R42): one bit per word, all of them set. -/

theorem eq_allOnes_iff {n : Nat} (b : BitVec n) : b = BitVec.allOnes n ↔ ∀ j : Fin n, b.getLsbD j = true := by
  refine ⟨fun h j => by simp [h], fun h => BitVec.eq_of_getLsbD_eq fun j hj => ?_⟩
  simpa [hj] using h ⟨j, hj⟩

theorem getLsbD_or_wordBit {n : Nat} (b : BitVec n) (i j : Fin n) :
    (b ||| (1#n <<< i.val)).getLsbD j = (b.getLsbD j || decide (j = i)) := by
  change (b ||| BitVec.twoPow n i).getLsbD j = _
  simp [Fin.ext_iff, eq_comm]

/-- Setting the bit of word i completes the bits exactly when every other word's bit was set. -/
theorem or_wordBit_eq_allOnes_iff {n : Nat} (b : BitVec n) (i : Fin n) :
    b ||| (1#n <<< i.val) = BitVec.allOnes n ↔ ∀ j : Fin n, j ≠ i → b.getLsbD j = true := by
  simp only [eq_allOnes_iff, getLsbD_or_wordBit, Bool.or_eq_true, decide_eq_true_eq]
  exact forall_congr' fun j => or_comm.trans or_iff_not_imp_left

theorem State.fMarked_iff (s : State) (r : FReg) : s.fMarked r = true ↔ s.fWritten[r] = BitVec.allOnes 6 :=
  beq_iff_eq

theorem State.xMarked_iff (s : State) (r : XReg) : s.xMarked r = true ↔ s.xWritten[r] = BitVec.allOnes 12 :=
  beq_iff_eq

/-! The part of the state that only writers touch. -/

/-- The registers with their written-since-reset bits (R30, R31, R32, R42). -/
structure Registers where
  f : Vector FieldElement 16
  x : Vector ExtElement 4
  arg : Word
  fWritten : Vector (BitVec 6) 16
  xWritten : Vector (BitVec 12) 4
  argWritten : Bool

/-- The registers of a state. -/
def State.registers (s : State) : Registers := ⟨s.f, s.x, s.arg, s.fWritten, s.xWritten, s.argWritten⟩

theorem State.registers_eq_iff {s t : State} : t.registers = s.registers ↔
    t.f = s.f ∧ t.x = s.x ∧ t.arg = s.arg ∧ t.fWritten = s.fWritten ∧ t.xWritten = s.xWritten ∧
    t.argWritten = s.argWritten := by simp [State.registers]

@[simp] theorem State.consume_registers (s : State) : s.consume.registers = s.registers := rfl

@[simp] theorem State.launch_registers (s : State) (i : Instr) (j : Job) :
    (s.launch i j).registers = s.registers := rfl

@[simp] theorem State.releaseReset_registers (s : State) : s.releaseReset.registers = s.registers := rfl

@[simp] theorem State.raiseFault_registers (s : State) (code : ErrCode) (info : Word) :
    (s.raiseFault code info).registers = s.registers := by
  rw [State.raiseFault_frame]
  rfl

theorem State.checked_registers {s taken : State} (word : Word) (h : taken.registers = s.registers) :
    (s.checked word taken).registers = s.registers := by
  unfold State.checked
  split_ifs <;> simp [h]

/-- The meaning of a command, its acceptance, writes no register (R101). -/
theorem exec_registers {s t : State} {i : Instr} (h : exec i s = .next t) : t.registers = s.registers := by
  obtain ⟨taken, hexec, hshape⟩ := exec_shape i s
  cases hexec.symm.trans h
  refine State.checked_registers _ ?_
  rcases hshape with ⟨job, rfl, -⟩ | ⟨rfl, -⟩ | ⟨rd, rs1, -, -, rfl⟩ <;> simp

theorem deliverCommand_registers {s t : State} {w : Word} (h : deliverCommand w s = .next t) :
    t.registers = s.registers := by
  unfold deliverCommand at h
  split at h
  · exact exec_registers h
  · cases h
    exact State.checked_registers w (by simp)

/-! The writers. -/

/-- What a step other than the assertion of reset makes of the registers: nothing, or the write of one writer. -/
inductive RegisterStep (s : State) : State → Prop where
  /-- no writer -/
  | kept {t : State} (h : t.registers = s.registers) : RegisterStep s t
  /-- a host write of ARG that lands -/
  | hostArg {v : Word} (hev : s.nextEvent = .write 0x001 v) (hp : s.pending = none) (hr : s.resetAsserted = false) :
    RegisterStep s (s.consume.writeArg v)
  /-- a host write of word i of F[r] that lands -/
  | hostField {a : PortAddr} {r : FReg} {i : Fin 6} {v : Word} (ha : IsFieldWordAddr a r i)
    (hev : s.nextEvent = .write a v) (hp : s.pending = none) (hr : s.resetAsserted = false) :
    RegisterStep s (s.consume.writeFieldWord r i v)
  /-- a host write of word i of X[r] that lands -/
  | hostExt {a : PortAddr} {r : XReg} {i : Fin 12} {v : Word} (ha : IsExtWordAddr a r i)
    (hev : s.nextEvent = .write a v) (hp : s.pending = none) (hr : s.resetAsserted = false) :
    RegisterStep s (s.consume.writeExtWord r i v)
  /-- the completion of a command with destination F[r] -/
  | completeField {p : Pending} {n : Nat} {r : FReg} {v : FieldElement} (hev : s.nextEvent = .blockStep)
    (hp : s.pending = some p) (hw : p.result n = .field r v) : RegisterStep s (s.consume.idleWithField r v)
  /-- the completion of a command with destination X[r] -/
  | completeExt {p : Pending} {n : Nat} {r : XReg} {v : ExtElement} (hev : s.nextEvent = .blockStep)
    (hp : s.pending = some p) (hw : p.result n = .ext r v) : RegisterStep s (s.consume.idleWithExt r v)

/-- A host write: a command and a dropped write leave the registers, and one that lands has BUSY = 0 (R66). -/
theorem registerStep_of_hostWrite {s t : State} {a : PortAddr} {v : Word} (hev : s.nextEvent = .write a v)
    (hr : s.resetAsserted = false) (h : hostWrite a v s.consume = .next t) : RegisterStep s t := by
  rcases hostWrite_shape a v s.consume with ⟨hcmd, -⟩ | hnone | ⟨landed, hguard, -, hlanded⟩
  · exact .kept ((deliverCommand_registers (hcmd.symm.trans h)).trans s.consume_registers)
  · cases hnone.symm.trans h
    exact .kept rfl
  · cases hguard.symm.trans h
    rcases State.portWrite_cases s.consume a landed with ⟨hidle, hwrite⟩ | ⟨-, hdrop⟩
    · have hp : s.pending = none := by simpa [State.busy] using hidle
      rw [hwrite]
      rcases hlanded with ⟨rfl, ha⟩ | ⟨r, i, rfl, ha⟩ | ⟨r, i, rfl, ha⟩
      · obtain rfl : a = 0x001 := BitVec.eq_of_toNat_eq (portTarget_arg.1 ha)
        exact .hostArg hev hp hr
      · exact .hostField (portTarget_fieldWord.1 ha) hev hp hr
      · exact .hostExt (portTarget_extWord.1 ha) hev hp hr
    · exact .kept (by simp [hdrop])

theorem registerStep_of_complete {s : State} (hev : s.nextEvent = .blockStep) : RegisterStep s s.consume.complete := by
  cases hp : s.pending with
  | none =>
    rw [State.complete_idle (by simpa using hp)]
    exact .kept rfl
  | some p =>
    rw [State.complete_pending (by simpa using hp)]
    cases hw : p.result s.consume.draws with
    | field r v => exact .completeField hev hp hw
    | ext r v => exact .completeExt hev hp hw

/-- Every step but the assertion of reset, by its event. -/
theorem registerStep_of_step {s t : State} (hne : s.nextEvent ≠ .assertReset) (h : step s = .next t) :
    RegisterStep s t := by
  cases hev : s.nextEvent with
  | read a =>
    cases (step_of_read hev).symm.trans h
    exact .kept rfl
  | write a v =>
    cases hr : s.resetAsserted with
    | true =>
      cases (step_of_write_in_reset hev hr).symm.trans h
      exact .kept rfl
    | false => exact registerStep_of_hostWrite hev hr ((step_of_write hev hr).symm.trans h)
  | blockStep =>
    cases (step_of_blockStep hev).symm.trans h
    exact registerStep_of_complete hev
  | assertReset => exact absurd hev hne
  | releaseReset =>
    cases (step_of_releaseReset hev).symm.trans h
    exact .kept rfl

/-! What a step makes of one register: it and its bits are kept, or one of its own writers wrote it. -/

theorem RegisterStep.field_cases {s t : State} (h : RegisterStep s t) (r : FReg) :
    (t.f[r] = s.f[r] ∧ t.fWritten[r] = s.fWritten[r]) ∨
    (∃ a i v, IsFieldWordAddr a r i ∧ s.nextEvent = .write a v ∧ s.pending = none ∧ s.resetAsserted = false ∧
      t.fWritten[r] = s.fWritten[r] ||| (1#6 <<< i.val)) ∨
    (s.nextEvent = .blockStep ∧ (∃ p n v, s.pending = some p ∧ p.result n = .field r v) ∧
      t.fWritten[r] = BitVec.allOnes 6) := by
  cases h with
  | kept h =>
    obtain ⟨hf, -, -, hw, -, -⟩ := State.registers_eq_iff.1 h
    exact .inl ⟨by rw [hf], by rw [hw]⟩
  | hostArg | hostExt | completeExt => exact .inl ⟨rfl, rfl⟩
  | @hostField a q i v ha hev hp hr =>
    obtain rfl | hq := eq_or_ne q r
    · exact .inr (.inl ⟨a, i, v, ha, hev, hp, hr, by simp⟩)
    · exact .inl (by simp [Fin.val_inj, hq])
  | @completeField p n q v hev hp hw =>
    obtain rfl | hq := eq_or_ne q r
    · exact .inr (.inr ⟨hev, ⟨p, n, v, hp, hw⟩, by simp⟩)
    · exact .inl (by simp [Fin.val_inj, hq])

theorem RegisterStep.ext_cases {s t : State} (h : RegisterStep s t) (r : XReg) :
    (t.x[r] = s.x[r] ∧ t.xWritten[r] = s.xWritten[r]) ∨
    (∃ a i v, IsExtWordAddr a r i ∧ s.nextEvent = .write a v ∧ s.pending = none ∧ s.resetAsserted = false ∧
      t.xWritten[r] = s.xWritten[r] ||| (1#12 <<< i.val)) ∨
    (s.nextEvent = .blockStep ∧ (∃ p n v, s.pending = some p ∧ p.result n = .ext r v) ∧
      t.xWritten[r] = BitVec.allOnes 12) := by
  cases h with
  | kept h =>
    obtain ⟨-, hx, -, -, hw, -⟩ := State.registers_eq_iff.1 h
    exact .inl ⟨by rw [hx], by rw [hw]⟩
  | hostArg | hostField | completeField => exact .inl ⟨rfl, rfl⟩
  | @hostExt a q i v ha hev hp hr =>
    obtain rfl | hq := eq_or_ne q r
    · exact .inr (.inl ⟨a, i, v, ha, hev, hp, hr, by simp⟩)
    · exact .inl (by simp [Fin.val_inj, hq])
  | @completeExt p n q v hev hp hw =>
    obtain rfl | hq := eq_or_ne q r
    · exact .inr (.inr ⟨hev, ⟨p, n, v, hp, hw⟩, by simp⟩)
    · exact .inl (by simp [Fin.val_inj, hq])

theorem RegisterStep.arg_cases {s t : State} (h : RegisterStep s t) :
    (t.arg = s.arg ∧ t.argWritten = s.argWritten) ∨
    (t.argWritten = true ∧ ∃ v, s.nextEvent = .write 0x001 v ∧ s.pending = none ∧ s.resetAsserted = false) := by
  cases h with
  | kept h =>
    obtain ⟨-, -, ha, -, -, hw⟩ := State.registers_eq_iff.1 h
    exact .inl ⟨ha, hw⟩
  | @hostArg v hev hp hr => exact .inr ⟨rfl, v, hev, hp, hr⟩
  | hostField | hostExt | completeField | completeExt => exact .inl ⟨rfl, rfl⟩

/-- Settles O33: a register that changes was not kept, so one of its writers wrote it. -/
theorem registersChangeOnlyByTheirWriters : Obligations.RegistersChangeOnlyByTheirWriters := by
  intro s t hne h
  have hreg := registerStep_of_step hne h
  refine ⟨fun r hch => ?field, fun r hch => ?ext, fun hch => ?arg⟩
  case field =>
    rcases hreg.field_cases r with ⟨hkept, -⟩ | ⟨a, i, v, ha, hev, hp, hr, -⟩ | ⟨hev, hdest, -⟩
    · exact absurd hkept hch
    · exact .inl ⟨a, i, v, ha, hev, hp, hr⟩
    · exact .inr ⟨hev, hdest⟩
  case ext =>
    rcases hreg.ext_cases r with ⟨hkept, -⟩ | ⟨a, i, v, ha, hev, hp, hr, -⟩ | ⟨hev, hdest, -⟩
    · exact absurd hkept hch
    · exact .inl ⟨a, i, v, ha, hev, hp, hr⟩
    · exact .inr ⟨hev, hdest⟩
  case arg =>
    rcases hreg.arg_cases with ⟨hkept, -⟩ | ⟨-, hhost⟩
    · exact absurd hkept hch
    · exact hhost

/-! The marks over a step (R42). -/

/-- A mark is kept: no writer clears a bit. -/
theorem RegisterStep.fMarked_of_fMarked {s t : State} (h : RegisterStep s t) {r : FReg} (hm : s.fMarked r = true) :
    t.fMarked r = true := by
  rw [State.fMarked_iff] at *
  rcases h.field_cases r with ⟨-, hw⟩ | ⟨a, i, v, -, -, -, -, hw⟩ | ⟨-, -, hw⟩
  · exact hw.trans hm
  · rw [hw, hm, BitVec.allOnes_or]
  · exact hw

theorem RegisterStep.xMarked_of_xMarked {s t : State} (h : RegisterStep s t) {r : XReg} (hm : s.xMarked r = true) :
    t.xMarked r = true := by
  rw [State.xMarked_iff] at *
  rcases h.ext_cases r with ⟨-, hw⟩ | ⟨a, i, v, -, -, -, -, hw⟩ | ⟨-, -, hw⟩
  · exact hw.trans hm
  · rw [hw, hm, BitVec.allOnes_or]
  · exact hw

/-- A new mark: the host wrote the last missing word, or a command completed. -/
theorem RegisterStep.fMarked_newly {s t : State} (h : RegisterStep s t) {r : FReg} (hold : s.fMarked r = false)
    (hnew : t.fMarked r = true) :
    (∃ a i v, IsFieldWordAddr a r i ∧ s.nextEvent = .write a v ∧ s.pending = none ∧ s.resetAsserted = false ∧
      ∀ j : Fin 6, j ≠ i → s.fWritten[r].getLsbD j = true) ∨
    (s.nextEvent = .blockStep ∧ ∃ p n v, s.pending = some p ∧ p.result n = .field r v) := by
  rw [State.fMarked_iff] at hnew
  rw [← Bool.not_eq_true, State.fMarked_iff] at hold
  rcases h.field_cases r with ⟨-, hw⟩ | ⟨a, i, v, ha, hev, hp, hr, hw⟩ | ⟨hev, hdest, -⟩
  · exact absurd (hw.symm.trans hnew) hold
  · exact .inl ⟨a, i, v, ha, hev, hp, hr, (or_wordBit_eq_allOnes_iff _ i).1 (hw.symm.trans hnew)⟩
  · exact .inr ⟨hev, hdest⟩

theorem RegisterStep.xMarked_newly {s t : State} (h : RegisterStep s t) {r : XReg} (hold : s.xMarked r = false)
    (hnew : t.xMarked r = true) :
    (∃ a i v, IsExtWordAddr a r i ∧ s.nextEvent = .write a v ∧ s.pending = none ∧ s.resetAsserted = false ∧
      ∀ j : Fin 12, j ≠ i → s.xWritten[r].getLsbD j = true) ∨
    (s.nextEvent = .blockStep ∧ ∃ p n v, s.pending = some p ∧ p.result n = .ext r v) := by
  rw [State.xMarked_iff] at hnew
  rw [← Bool.not_eq_true, State.xMarked_iff] at hold
  rcases h.ext_cases r with ⟨-, hw⟩ | ⟨a, i, v, ha, hev, hp, hr, hw⟩ | ⟨hev, hdest, -⟩
  · exact absurd (hw.symm.trans hnew) hold
  · exact .inl ⟨a, i, v, ha, hev, hp, hr, (or_wordBit_eq_allOnes_iff _ i).1 (hw.symm.trans hnew)⟩
  · exact .inr ⟨hev, hdest⟩

/-! The completion of a command in flight (R103): its destination is the command's, whatever the draw. -/

/-- The register a write goes to. -/
def RegWrite.target : RegWrite → FReg ⊕ XReg
  | .field r _ => .inl r
  | .ext r _ => .inr r

theorem RegWrite.target_field_iff {w : RegWrite} {r : FReg} : w.target = .inl r ↔ ∃ v, w = .field r v := by
  cases w <;> simp [RegWrite.target]

theorem RegWrite.target_ext_iff {w : RegWrite} {r : XReg} : w.target = .inr r ↔ ∃ v, w = .ext r v := by
  cases w <;> simp [RegWrite.target]

@[simp] theorem RegWrite.target_undefined (w : RegWrite) (n : Nat) : (w.undefined n).target = w.target := by
  cases w <;> rfl

theorem Job.result_target (j : Job) (m n : Nat) : (j.result m).target = (j.result n).target := by
  cases j <;> rfl

theorem Pending.result_target (p : Pending) (m n : Nat) : (p.result m).target = (p.result n).target := by
  unfold Pending.result
  split_ifs <;> simp [Job.result_target p.job m n]

theorem State.complete_of_field {s : State} {p : Pending} {r : FReg} {v : FieldElement} (hp : s.pending = some p)
    (hw : p.result s.draws = .field r v) : s.complete = s.idleWithField r v := by
  rw [State.complete_pending hp, hw, State.writeBack_field]

theorem State.complete_of_ext {s : State} {p : Pending} {r : XReg} {v : ExtElement} (hp : s.pending = some p)
    (hw : p.result s.draws = .ext r v) : s.complete = s.idleWithExt r v := by
  rw [State.complete_pending hp, hw, State.writeBack_ext]

theorem State.complete_fMarked {s : State} {p : Pending} {r : FReg} (hp : s.pending = some p)
    (ht : (p.result s.draws).target = .inl r) : s.complete.fMarked r = true := by
  obtain ⟨v, hw⟩ := RegWrite.target_field_iff.1 ht
  simp [State.complete_of_field hp hw, State.fMarked_iff]

theorem State.complete_xMarked {s : State} {p : Pending} {r : XReg} (hp : s.pending = some p)
    (ht : (p.result s.draws).target = .inr r) : s.complete.xMarked r = true := by
  obtain ⟨v, hw⟩ := RegWrite.target_ext_iff.1 ht
  simp [State.complete_of_ext hp hw, State.xMarked_iff]

/-- Settles O49: no writer clears a mark, each sets only its own register's, and a completion sets its destination's. -/
theorem marksOnlyClearedByReset : Obligations.MarksOnlyClearedByReset := by
  refine ⟨fun s t hne h => ?step, fun s p n hp => ⟨fun r v hw => ?field, fun r v hw => ?ext⟩⟩
  case step =>
    have hreg := registerStep_of_step hne h
    refine ⟨fun r => hreg.fMarked_of_fMarked, fun r => hreg.xMarked_of_xMarked, fun hold => ?_,
      fun r => hreg.fMarked_newly, fun r => hreg.xMarked_newly, fun hold hnew => ?_⟩
    · rcases hreg.arg_cases with ⟨-, hkept⟩ | ⟨hset, -⟩
      · exact hkept.trans hold
      · exact hset
    · rcases hreg.arg_cases with ⟨-, hkept⟩ | ⟨-, hhost⟩
      · simp [hkept, hold] at hnew
      · exact hhost
  case field => exact State.complete_fMarked hp (by rw [p.result_target _ n, hw]; rfl)
  case ext => exact State.complete_xMarked hp (by rw [p.result_target _ n, hw]; rfl)

end Sys2Proof.Machine
end

section
/-! PROOFS. What a step does by the event it meets, in the state with the event consumed (20_memory.md R66 and R71,
30_encoding.md R101 and R103, 70_reset_and_hazards.md R270 and R273). -/

namespace Sys2Proof.Machine

open Sys2Proof

/-! The next event, taken from the inputs. -/

theorem State.nextEvent_of_cons {s : State} {e : Event} {rest : List Event} (h : s.inputs = e :: rest) :
    s.nextEvent = e := by simp [State.nextEvent, h]

theorem State.nextEvent_of_nil {s : State} (h : s.inputs = []) : s.nextEvent = .blockStep := by
  simp [State.nextEvent, h]

theorem State.consume_of_cons {s : State} {e : Event} {rest : List Event} (h : s.inputs = e :: rest) :
    s.consume = { s with inputs := rest, reply := none, draws := s.draws + 1 } := by
  rw [State.consume, h, List.tail_cons]

theorem State.consume_of_nil {s : State} (h : s.inputs = []) :
    s.consume = { s with inputs := [], reply := none, draws := s.draws + 1 } := by
  rw [State.consume, h, List.tail_nil]

/-! A word delivered to CMD (R36, R101). -/

theorem hostWrite_cmd (w : Word) (s : State) : hostWrite 0x000 w s = deliverCommand w s := rfl

theorem deliverCommand_of_decode {w : Word} {i : Instr} (s : State) (h : decode w = .ok i) :
    deliverCommand w s = exec i s := by simp [deliverCommand, h]

theorem decode_tableWord {nbits w : Nat} {i : Instr} (h : decodeTableWord nbits w = some i) :
    decode (tableWord nbits w) = .ok i := by
  unfold decodeTableWord at h
  split at h <;> cases h
  assumption

/-- A step that delivers a command word is the command's meaning (R101). -/
theorem step_of_command {s : State} {w : Word} {rest : List Event} {i : Instr}
    (hin : s.inputs = .write 0x000 w :: rest) (hr : s.resetAsserted = false) (hdec : decode w = .ok i) :
    step s = exec i { s with inputs := rest, reply := none, draws := s.draws + 1 } := by
  rw [step_of_write (State.nextEvent_of_cons hin) hr, hostWrite_cmd, deliverCommand_of_decode _ hdec,
    State.consume_of_cons hin]

/-- Settles O30, clause by clause from the step's lemma for each event. -/
theorem stepRunsTheDeliveredCommand : Obligations.StepRunsTheDeliveredCommand := by
  refine ⟨fun s w rest i hin hr hdec => step_of_command hin hr hdec, fun s nbits w i htab => ?fetched,
    fun s a v rest hin => ⟨fun hr => ?lands, fun hr => ?dead⟩, fun s w => hostWrite_cmd w s,
    fun s rest hin => ?completes, fun s => ⟨State.complete_idle, fun p hp => ?completion⟩, fun s rest hin => ?released⟩
  case fetched => exact step_of_command rfl rfl (decode_tableWord htab)
  case lands =>
    rw [step_of_write (State.nextEvent_of_cons hin) hr, State.consume_of_cons hin]
  case dead =>
    rw [step_of_write_in_reset (State.nextEvent_of_cons hin) hr, State.consume_of_cons hin]
  case completes =>
    rcases hin with hin | ⟨hin, rfl⟩
    · rw [step_of_blockStep (State.nextEvent_of_cons hin), State.consume_of_cons hin]
    · rw [step_of_blockStep (State.nextEvent_of_nil hin), State.consume_of_nil hin]
  case completion => exact ⟨fun r v => State.complete_of_field hp, fun r v => State.complete_of_ext hp⟩
  case released =>
    rw [step_of_releaseReset (State.nextEvent_of_cons hin), State.consume_of_cons hin]
    rfl

end Sys2Proof.Machine
end

section
/-! PROOFS. The control registers as the host reads and writes them (10_state.md R32 to R36, 20_memory.md R65 and R66),
their values after reset (R43), and the constants (R37). -/

namespace Sys2Proof.Machine

open Sys2Proof

/-! Host reads of the control registers with reset not asserted (R65). -/

theorem State.hostRead_cmd {s : State} {a : PortAddr} (hr : s.resetAsserted = false) (ha : portTarget a = .cmd) :
    s.hostRead a = 0 := by simp [State.hostRead, hr, ha]

theorem State.hostRead_arg {s : State} {a : PortAddr} (hr : s.resetAsserted = false) (ha : portTarget a = .arg)
    (hm : s.argWritten = true) : s.hostRead a = s.arg := by simp [State.hostRead, hr, ha, hm]

theorem State.hostRead_status {s : State} {a : PortAddr} (hr : s.resetAsserted = false)
    (ha : portTarget a = .status) : s.hostRead a = s.statusWord := by simp [State.hostRead, hr, ha]

theorem State.hostRead_errInfo {s : State} {a : PortAddr} (hr : s.resetAsserted = false)
    (ha : portTarget a = .errInfo) : s.hostRead a = s.errInfo := by simp [State.hostRead, hr, ha]

/-- Settles O40: no read of a control register looks at BUSY. -/
theorem controlReads : Obligations.ControlReads := fun _ hr =>
  ⟨State.hostRead_cmd hr rfl, State.hostRead_arg hr rfl, State.hostRead_status hr rfl, State.hostRead_errInfo hr rfl⟩

/-- Settles O44: with the slot empty the guarded write lands, and ARG's mark is then set. -/
theorem argWriteLands : Obligations.ArgWriteLands := by
  intro v s hp
  refine ⟨s.writeArg v, ?lands, rfl, ?operand⟩
  case lands =>
    have hw : hostWrite 0x001 v s = .next (s.portWrite 0x001 (s.writeArg v)) := rfl
    rw [hw, State.portWrite, State.not_busy_of_none hp]
    rfl
  case operand => simp [State.argOperand]

/-- The status word bit by bit (R33). -/
theorem State.statusWord_getLsbD (s : State) (j : Nat) : s.statusWord.getLsbD j =
    if j = 0 then s.busy else if j = 1 then s.err else if j < 4 then false else s.errCode.bits.getLsbD (j - 4) := by
  rw [State.statusWord, BitVec.getLsbD_append, BitVec.getLsbD_append, BitVec.getLsbD_append, BitVec.getLsbD_append]
  match j with
  | 0 | 1 | 2 | 3 => simp
  | j + 4 =>
    rcases lt_or_ge j 4 with hj | hj
    · simp [hj]
    · simp [BitVec.getLsbD_of_ge _ j hj]

/-- Settles O43, bit by bit; a bit of ERRCODE's number from bit 4 on is 0. -/
theorem statusLayout : Obligations.StatusLayout := by
  refine ⟨fun s => ⟨?busy, ?err, ?low, ?code, ?high⟩, rfl, rfl, rfl, rfl, rfl⟩
  case busy => exact s.statusWord_getLsbD 0
  case err => exact s.statusWord_getLsbD 1
  case low =>
    ext j hj
    rw [BitVec.getElem_extractLsb', State.statusWord_getLsbD, if_neg (by omega), if_neg (by omega), if_pos (by omega)]
    simp
  case code =>
    ext j hj
    rw [BitVec.getElem_extractLsb', State.statusWord_getLsbD, if_neg (by omega), if_neg (by omega), if_neg (by omega),
      Nat.add_sub_cancel_left, BitVec.getLsbD_eq_getElem hj]
  case high =>
    ext j hj
    rw [BitVec.getElem_extractLsb', State.statusWord_getLsbD, if_neg (by omega), if_neg (by omega), if_neg (by omega),
      BitVec.getLsbD_of_ge _ _ (by omega)]
    simp

/-- Settles O46: the reset state's fields, read off. -/
theorem resetValues : Obligations.ResetValues := by
  refine ⟨rfl, rfl, rfl, rfl, fun r => ?_, fun r => ?_, rfl, rfl⟩
  · simp [State.fMarked, State.reset]
  · simp [State.xMarked, State.reset]

/-- Settles O51: closed numbers, with PExt = P · P. -/
theorem constantWords : Obligations.ConstantWords := by
  refine ⟨by decide, by decide, rfl, ?_⟩
  rw [sq, primePExt_eq_mul]

end Sys2Proof.Machine
end

section
/-! PROOFS. The host's accesses of the register windows and of the addresses that hold nothing (20_memory.md R62 to R66
and R70), with the reads the spec calls unspecified (R65, 70_reset_and_hazards.md R270). -/

namespace Sys2Proof.Machine

open Sys2Proof

/-! The address map at STATUS and ERRINFO, read backwards (R61). -/

theorem portTarget_status {a : PortAddr} : portTarget a = .status ↔ a.toNat = 2 := by
  rw [portTarget_eq, fieldWindow_eq, extWindow_eq]
  split_ifs <;> simp <;> omega

theorem portTarget_errInfo {a : PortAddr} : portTarget a = .errInfo ↔ a.toNat = 3 := by
  rw [portTarget_eq, fieldWindow_eq, extWindow_eq]
  split_ifs <;> simp <;> omega

/-! Host writes by what the address selects (R64, R66). -/

theorem State.portWrite_idle {s : State} (a : PortAddr) (landed : State) (hp : s.pending = none) :
    s.portWrite a landed = landed := by simp [State.portWrite, State.not_busy_of_none hp]

/-- On an idle block the write of a field window word lands (R62). -/
theorem hostWrite_fieldWord_idle {a : PortAddr} {r : FReg} {i : Fin 6} {s : State} (v : Word) (hp : s.pending = none)
    (ha : IsFieldWordAddr a r i) : hostWrite a v s = .next (s.writeFieldWord r i v) := by
  simp [hostWrite, portTarget_fieldWord.2 ha, State.portWrite_idle a _ hp]

/-- On an idle block the write of an extended window word lands (R63). -/
theorem hostWrite_extWord_idle {a : PortAddr} {r : XReg} {i : Fin 12} {s : State} (v : Word) (hp : s.pending = none)
    (ha : IsExtWordAddr a r i) : hostWrite a v s = .next (s.writeExtWord r i v) := by
  simp [hostWrite, portTarget_extWord.2 ha, State.portWrite_idle a _ hp]

/-- A write that selects no writable register is ignored, whether BUSY is 0 or 1 (R64). -/
theorem hostWrite_ignored {a : PortAddr} (v : Word) (s : State)
    (ha : portTarget a = .reserved ∨ portTarget a = .status ∨ portTarget a = .errInfo) : hostWrite a v s = .next s := by
  rcases ha with ha | ha | ha <;> simp [hostWrite, ha]

/-! Host reads by what the address selects (R65). -/

theorem State.hostRead_in_reset {s : State} (a : PortAddr) (hr : s.resetAsserted = true) :
    s.hostRead a = Config.freeWord s.draws := by simp [State.hostRead, hr]

theorem State.hostRead_reserved {s : State} {a : PortAddr} (hr : s.resetAsserted = false)
    (ha : portTarget a = .reserved) : s.hostRead a = 0 := by simp [State.hostRead, hr, ha]

theorem State.hostRead_arg_unwritten {s : State} {a : PortAddr} (ha : portTarget a = .arg)
    (hm : s.argWritten = false) : s.hostRead a = Config.freeWord s.draws := by simp [State.hostRead, ha, hm]

/-- The read of a field window word: a draw in reset, while BUSY = 1 and without the mark, else the word. -/
theorem State.hostRead_fieldWord {a : PortAddr} {r : FReg} {i : Fin 6} (s : State) (ha : IsFieldWordAddr a r i) :
    s.hostRead a =
      if s.resetAsserted || s.busy || !s.fMarked r then Config.freeWord s.draws else wordAt s.f[r] i := by
  rw [State.hostRead, portTarget_fieldWord.2 ha]
  cases s.resetAsserted <;> simp

/-- The same for an extended window word. -/
theorem State.hostRead_extWord {a : PortAddr} {r : XReg} {i : Fin 12} (s : State) (ha : IsExtWordAddr a r i) :
    s.hostRead a =
      if s.resetAsserted || s.busy || !s.xMarked r then Config.freeWord s.draws else wordAt s.x[r] i := by
  rw [State.hostRead, portTarget_extWord.2 ha]
  cases s.resetAsserted <;> simp

theorem State.busy_iff (s : State) : s.busy = true ↔ s.pending ≠ none := Option.isSome_iff_ne_none

/-- Settles O36: the write lands as `State.writeFieldWord`, read off word by word and bit by bit. -/
theorem fieldWordWriteLands : Obligations.FieldWordWriteLands := by
  intro a r i v s hp ha
  refine ⟨s.writeFieldWord r i v, hostWrite_fieldWord_idle v hp ha, ?word, fun j hj => ?words, fun q hq => ?regs, rfl,
    fun j => ?bits, fun q hq => ?marks, ?mark⟩
  case word => simpa using wordAt_setWordAt_self s.f[r] i v (by omega)
  case words => simpa using wordAt_setWordAt_ne s.f[r] i j v (Fin.val_ne_of_ne hj) (by omega)
  case regs => simp [Fin.val_inj, hq.symm]
  case bits => simpa using getLsbD_or_wordBit s.fWritten[r] i j
  case marks => simp [Fin.val_inj, hq.symm]
  case mark => simpa [State.fMarked_iff] using or_wordBit_eq_allOnes_iff s.fWritten[r] i

/-- Settles O37: the write lands as `State.writeExtWord`, read off in the same way. -/
theorem extWordWriteLands : Obligations.ExtWordWriteLands := by
  intro a r i v s hp ha
  refine ⟨s.writeExtWord r i v, hostWrite_extWord_idle v hp ha, ?word, fun j hj => ?words, fun q hq => ?regs, rfl,
    fun j => ?bits, fun q hq => ?marks, ?mark⟩
  case word => simpa using wordAt_setWordAt_self s.x[r] i v (by omega)
  case words => simpa using wordAt_setWordAt_ne s.x[r] i j v (Fin.val_ne_of_ne hj) (by omega)
  case regs => simp [Fin.val_inj, hq.symm]
  case bits => simpa using getLsbD_or_wordBit s.xWritten[r] i j
  case marks => simp [Fin.val_inj, hq.symm]
  case mark => simpa [State.xMarked_iff] using or_wordBit_eq_allOnes_iff s.xWritten[r] i

/-- Settles O38: out of reset, idle and marked, none of the three reasons for a draw is there. -/
theorem idleWindowReadReturnsTheWord : Obligations.IdleWindowReadReturnsTheWord := by
  intro a s hp hr
  have hidle := State.not_busy_of_none hp
  refine ⟨fun r i ha hm => ?field, fun r i ha hm => ?ext⟩
  case field => simp [s.hostRead_fieldWord ha, hr, hidle, hm]
  case ext => simp [s.hostRead_extWord ha, hr, hidle, hm]

/-- Settles O39: each clause names one of the reasons for a draw. -/
theorem unspecifiedReadsAreDraws : Obligations.UnspecifiedReadsAreDraws := by
  intro a s
  refine ⟨State.hostRead_in_reset a, fun r i ha hdraw => ?field, fun r i ha hdraw => ?ext,
    fun ha => State.hostRead_arg_unwritten (portTarget_arg.2 ha)⟩
  case field =>
    rw [s.hostRead_fieldWord ha]
    rcases hdraw with hbusy | hmark
    · simp [s.busy_iff.2 hbusy]
    · simp [hmark]
  case ext =>
    rw [s.hostRead_extWord ha]
    rcases hdraw with hbusy | hmark
    · simp [s.busy_iff.2 hbusy]
    · simp [hmark]

/-- Settles O41: by what the address selects, nothing there for a write to change and nothing for a read to return. -/
theorem reservedAddressesAreInert : Obligations.ReservedAddressesAreInert := by
  intro a v s
  refine ⟨fun ha => ?reserved, fun ha => ?status, fun ha hr => State.hostRead_cmd hr (portTarget_cmd.2 ha)⟩
  case reserved =>
    have htarget := portTarget_reserved.2 ha
    exact ⟨hostWrite_ignored v s (.inl htarget), fun hr => State.hostRead_reserved hr htarget⟩
  case status => exact hostWrite_ignored v s (.inr (ha.imp portTarget_status.2 portTarget_errInfo.2))

/-- Settles O42: the event is consumed and the reply set to the word read. -/
theorem readStepChangesNothing : Obligations.ReadStepChangesNothing := by
  intro s a rest hin
  refine ⟨s.consume.hostRead a, ?_, rfl⟩
  rw [step_of_read (State.nextEvent_of_cons hin), State.consume_of_cons hin]

end Sys2Proof.Machine
end

section
/-! PROOFS. Encoding and decoding are inverse, each word has one verdict, and R92's masks decide the row
(30_encoding.md R90 to R97, R100, R105). -/

namespace Sys2Proof

open Sys2Proof.Machine

/-! Decoding (R100). -/

/-- A legal command is built by its opcode's row from fields the row accepts, those it is encoded with: an extended
index is below 4 by legality, and a field the row does not use is left 0 by the encoder (R91, R95, R96, R105). -/
theorem exists_row_of_wellFormed {i : Instr} (hwf : i.wellFormed = true) : ∃ row d a b,
    commandRow i.opcode.toNat = some row ∧ encode i = encodeFields i.opcode d a b ∧ i = row.build d a b ∧
    row.error d a b = none := by
  cases i with
  | fred | xadd | xsub =>
    refine ⟨_, _, _, _, rfl, rfl, rfl, ?_⟩
    simpa [CommandRow.error, Instr.wellFormed, extFieldLegal, and_assoc] using hwf
  | _ => exact ⟨_, _, _, _, rfl, rfl, rfl, rfl⟩

/-- Settles O2: the word's fields are the ones the command was encoded with, and its row accepts them. -/
theorem decodeInvertsEncode : Obligations.DecodeInvertsEncode := by
  intro i hwf
  obtain ⟨row, d, a, b, hrow, henc, hbuild, herr⟩ := exists_row_of_wellFormed hwf
  simp [decode, henc, hrow, herr, ← hbuild]

/-- Settles O3: the encoder puts back the fields the word was decoded from. -/
theorem encodeInvertsDecode : Obligations.EncodeInvertsDecode := fun _ _ => encode_of_decode

/-- Settles O1: each word is the encoding of its command. -/
theorem specWordsDecode : Obligations.SpecWordsDecode :=
  ⟨decodeInvertsEncode (.fadd 3 1 2) rfl, decodeInvertsEncode (.fadd1 6 4) rfl, decodeInvertsEncode (.fsub 4 3 2) rfl,
    decodeInvertsEncode (.fmul 4 2 3) rfl, decodeInvertsEncode (.fsqrn 2 1) rfl, decodeInvertsEncode (.fred 15 3) rfl,
    decodeInvertsEncode (.fred32 1) rfl, decodeInvertsEncode (.fcanon 2 2) rfl, decodeInvertsEncode (.xsub 2 3 1) rfl⟩

/-- A word decodes exactly when its opcode has a row, ZERO is 0 and the row accepts its fields (R100). -/
theorem exists_decode_iff (w : Word) : (∃ i, decode w = .ok i) ↔
    ∃ row, commandRow (opField w).toNat = some row ∧ zeroField w = 0 ∧
      row.error (rdField w) (rs1Field w) (rs2Field w) = none := by
  constructor
  · rintro ⟨i, h⟩
    obtain ⟨row, hrow, hzero, herr, -⟩ := decode_ok h
    exact ⟨row, hrow, hzero, herr⟩
  · rintro ⟨row, hrow, hzero, herr⟩
    exact ⟨row.build (rdField w) (rs1Field w) (rs2Field w), by simp [decode, hrow, hzero, herr]⟩

/-- A decoded command's opcode is the word's OP field (R92). -/
theorem opcode_of_decode {w : Word} {i : Instr} (h : decode w = .ok i) : i.opcode = opField w := by
  rw [← opField_encode, (encode_of_decode h).1]

/-- The illegal words are those that encode no command (R93 to R97): opcode by opcode, the fields R93 to R96 forbid are
those the row does not accept. -/
theorem illegalWord_iff (w : Word) : IllegalWord w ↔ ¬ ∃ i, decode w = .ok i := by
  rw [exists_decode_iff]
  unfold commandRow IllegalWord
  generalize (opField w).toNat = n
  split
  case h_15 =>
    have hreserved : n = 0 ∨ 0x0F ≤ n := by
      simp only [imp_false] at *
      omega
    simp [← or_assoc, hreserved]
  all_goals
    simp [CommandRow.error] <;> grind

/-- Settles O6: a word that is not illegal decodes, and the encoder gives the command back its OP field. -/
theorem everyWordHasOneVerdict : Obligations.EveryWordHasOneVerdict := by
  refine fun w => ⟨fun hill i h => (illegalWord_iff w).1 hill ⟨i, h⟩, fun hlegal => ?_⟩
  rw [illegalWord_iff, not_not] at hlegal
  exact hlegal.imp fun i h => ⟨h, opcode_of_decode h⟩

/-! Masks (R92): a row's mask keeps the opcode, ZERO, and what its classes forbid of each register field. -/

@[simp] theorem opField_and (u v : Word) : opField (u &&& v) = opField u &&& opField v := BitVec.extractLsb'_and ..

@[simp] theorem rdField_and (u v : Word) : rdField (u &&& v) = rdField u &&& rdField v := by
  simp [rdField, BitVec.extractLsb'_and]

@[simp] theorem rs1Field_and (u v : Word) : rs1Field (u &&& v) = rs1Field u &&& rs1Field v := by
  simp [rs1Field, BitVec.extractLsb'_and]

@[simp] theorem rs2Field_and (u v : Word) : rs2Field (u &&& v) = rs2Field u &&& rs2Field v := by
  simp [rs2Field, BitVec.extractLsb'_and]

@[simp] theorem zeroField_and (u v : Word) : zeroField (u &&& v) = zeroField u &&& zeroField v :=
  BitVec.extractLsb'_and ..

/-- A word is encoded from fields exactly when these are its fields and ZERO is 0 (R90). -/
theorem eq_encodeFields_iff (w : Word) (op : BitVec 5) (d a b : Fin 16) : w = encodeFields op d a b ↔
    opField w = op ∧ rdField w = d ∧ rs1Field w = a ∧ rs2Field w = b ∧ zeroField w = 0 := by
  constructor
  · rintro rfl
    simp
  · rintro ⟨rfl, rfl, rfl, rfl, hzero⟩
    exact (encodeFields_fields w hzero).symm

/-- The bits of a register field that its class makes 0: none, the upper two (R96), or all (R95). -/
def fieldMask : OperandClass → Fin 16
  | .f => 0
  | .x => 0xC
  | .none => 0xF

theorem and_fieldMask_eq_zero (c : OperandClass) : ∀ r : Fin 16, r &&& fieldMask c = 0 ↔ fieldError c r = none := by
  cases c <;> decide

/-- `m` is the mask of the row. -/
abbrev CommandRow.HasMask (row : CommandRow) (m : Word) : Prop :=
  opField m = BitVec.allOnes 5 ∧ rdField m = fieldMask row.rd ∧ rs1Field m = fieldMask row.rs1 ∧
  rs2Field m = fieldMask row.rs2 ∧ zeroField m = BitVec.allOnes 15

/-- A masked word is the bare opcode exactly when the word has that opcode, ZERO is 0 and the row accepts its fields. -/
theorem CommandRow.HasMask.and_eq_iff {row : CommandRow} {m : Word} (hm : row.HasMask m) (w : Word) (op : BitVec 5) :
    w &&& m = encodeFields op 0 0 0 ↔
      opField w = op ∧ zeroField w = 0 ∧ row.error (rdField w) (rs1Field w) (rs2Field w) = none := by
  obtain ⟨hop, hd, ha, hb, hzero⟩ := hm
  simp only [eq_encodeFields_iff, opField_and, rdField_and, rs1Field_and, rs2Field_and, zeroField_and, hop, hd, ha, hb,
    hzero, and_fieldMask_eq_zero, BitVec.and_allOnes, CommandRow.error, Option.or_eq_none_iff]
  tauto

/-- A row of R92's table, as (opcode, match, mask): the match is the bare opcode, and the mask is that of the opcode's
row in R91's table. -/
abbrev IsMaskTableRow (r : BitVec 5 × Word × Word) : Prop :=
  r.2.1 = encodeFields r.1 0 0 0 ∧ ∃ row ∈ commandRow r.1.toNat, row.HasMask r.2.2

theorem encodeFields_zero : ∀ op : BitVec 5, encodeFields op 0 0 0 = op.setWidth 32 <<< 27 := by decide

/-- A word matches a row exactly when it decodes to a command with the row's opcode (R92). -/
theorem IsMaskTableRow.matches_iff {r : BitVec 5 × Word × Word} (hr : IsMaskTableRow r) (w : Word) :
    w &&& r.2.2 = r.2.1 ↔ ∃ j, decode w = .ok j ∧ j.opcode = r.1 := by
  obtain ⟨hmatch, row, hrow, hmask⟩ := hr
  rw [hmatch, hmask.and_eq_iff]
  constructor
  · rintro ⟨hop, hzero, herr⟩
    obtain ⟨j, hj⟩ := (exists_decode_iff w).2 ⟨row, hop ▸ hrow, hzero, herr⟩
    exact ⟨j, hj, (opcode_of_decode hj).trans hop⟩
  · rintro ⟨j, hj, hop⟩
    rw [opcode_of_decode hj] at hop
    obtain ⟨row', hrow', hzero, herr⟩ := (exists_decode_iff w).1 ⟨j, hj⟩
    obtain rfl : row = row' := Option.some_inj.1 (hrow.symm.trans (hop ▸ hrow'))
    exact ⟨hop, hzero, herr⟩

/-- Settles O4: each row is one of R91's table with its mask, every opcode has a row, and no two rows share one. -/
theorem maskAndMatchDecideTheRow : Obligations.MaskAndMatchDecideTheRow := by
  unfold Obligations.MaskAndMatchDecideTheRow
  intro rows
  have hrows : ∀ r ∈ rows, IsMaskTableRow r := List.all_iff_forall_prop.1 (by decide)
  have hcover : ∀ j : Instr, ∃ r ∈ rows, j.opcode = r.1 := by
    intro j
    cases j <;> simp [rows, Instr.opcode]
  have hnodup : (rows.map Prod.fst).Nodup := by decide
  refine ⟨fun r hr => (hrows r hr).matches_iff, fun w => ⟨?matched, ?decodes⟩, fun r hr q hq w hwr hwq => ?unique,
    fun r hr => (hrows r hr).1.trans (encodeFields_zero r.1)⟩
  case matched =>
    rintro ⟨j, hj⟩
    obtain ⟨r, hr, hop⟩ := hcover j
    exact ⟨r, hr, ((hrows r hr).matches_iff w).2 ⟨j, hj, hop⟩⟩
  case decodes =>
    rintro ⟨r, hr, hw⟩
    obtain ⟨j, hj, -⟩ := ((hrows r hr).matches_iff w).1 hw
    exact ⟨j, hj⟩
  case unique =>
    obtain ⟨j, hj, hjr⟩ := ((hrows r hr).matches_iff w).1 hwr
    obtain ⟨k, hk, hkq⟩ := ((hrows q hq).matches_iff w).1 hwq
    obtain rfl : j = k := by simpa [hj] using hk
    exact List.inj_on_of_nodup_map hnodup hr hq (hjr.symm.trans hkq)

end Sys2Proof
end

section
/-! PROOFS. What an acceptance does and leaves alone, and what a completion depends on (30_encoding.md R93 to R96 and
R101 to R103, 60_exceptions.md R247, 10_state.md R42). -/

namespace Sys2Proof.Machine

open Sys2Proof

/-- A word that decodes to no command is rejected (R101). -/
theorem deliverCommand_of_not_decode {w : Word} (s : State) (h : ¬ ∃ i, decode w = .ok i) :
    deliverCommand w s = .next (s.rejectIllegal w) := by
  unfold deliverCommand
  split
  · next i hdec => exact absurd ⟨i, hdec⟩ h
  · rfl

/-- Settles O5: an illegal word decodes to no command, and a ready block records its rejection. -/
theorem illegalWordsRaiseIllegal : Obligations.IllegalWordsRaiseIllegal := by
  intro w s hready hill
  rw [deliverCommand_of_not_decode s ((illegalWord_iff w).1 hill), State.rejectIllegal_ready w hready]

/-- Settles O21: of the three outcomes of an acceptance only ILLEGAL is open to a command that is not well-formed. -/
theorem illFormedCommandRaisesIllegal : Obligations.IllFormedCommandRaisesIllegal := by
  intro i s hready hill
  obtain ⟨taken, hexec, hshape⟩ := exec_shape i s
  rw [hexec, State.checked_ready _ _ hready]
  rcases hshape with ⟨-, -, -, -, -, hwf⟩ | ⟨rfl, -⟩ | ⟨rd, rs1, rfl, -⟩
  · simp [hill] at hwf
  · rw [State.raiseFault_first _ _ hready.1]
  · cases hill

/-- What an acceptance makes of a state: nothing, a fault recorded, or the empty slot filled with UNINIT recorded. -/
inductive AcceptStep (s : State) : State → Prop where
  | kept : AcceptStep s s
  | faulted (code : ErrCode) (info : Word) : AcceptStep s (s.raiseFault code info)
  | launched (i : Instr) (job : Job) (hp : s.pending = none) : AcceptStep s (s.launch i job)

theorem acceptStep_of_exec {i : Instr} {s t : State} (h : exec i s = .next t) : AcceptStep s t := by
  obtain ⟨taken, hexec, hshape⟩ := exec_shape i s
  cases hexec.symm.trans h
  unfold State.checked
  split_ifs with herr hbusy
  · exact .kept
  · exact .faulted _ _
  · rcases hshape with ⟨job, rfl, -⟩ | ⟨rfl, -⟩ | ⟨rd, rs1, -, -, rfl⟩
    · exact .launched i job (by simpa [State.busy] using hbusy)
    · exact .faulted _ _
    · exact .faulted _ _

/-- Settles O28, by the three things an acceptance can make of a state. -/
theorem execChangesOnlySlotAndFault : Obligations.ExecChangesOnlySlotAndFault := by
  intro i s t h
  cases acceptStep_of_exec h with
  | kept => simp
  | faulted code info => simp [State.raiseFault_frame]
  | launched i job hp => exact ⟨rfl, by simp [hp], by simp, by simp [hp]⟩

/-! The draw number in a result (R102, R120, R210). -/

theorem nonCanonField_datapath (h : Config.nonCanon = .datapath) (settled : Bool) (v : FieldElement) (n : Nat) :
    nonCanonField settled v n = v := by simp [nonCanonField, h]

theorem nonCanonExt_datapath (h : Config.nonCanon = .datapath) (settled : Bool) (v : ExtElement) (n : Nat) :
    nonCanonExt settled v n = v := by simp [nonCanonExt, h]

/-- Under NONCANON = datapath no result draws. -/
theorem Job.result_datapath (h : Config.nonCanon = .datapath) (j : Job) (m n : Nat) : j.result m = j.result n := by
  cases j <;> simp [Job.result, faddResult, fadd1Result, fsubResult, fnegResult, ftwiceResult, fhalfResult, xaddResult,
    xsubResult, nonCanonField_datapath h, nonCanonExt_datapath h]

/-- Settles O35: the result is taken of the slot and the draw number, and under datapath, with every operand marked, of
the slot alone. -/
theorem resultDependsOnTheSnapshotOnly : Obligations.ResultDependsOnTheSnapshotOnly := by
  intro s t p hs ht hdraw
  have hresult : p.result s.draws = p.result t.draws := by
    rcases hdraw with ⟨hdatapath, hmarked⟩ | hdraws
    · rw [Pending.result_marked _ hmarked, Pending.result_marked _ hmarked, p.job.result_datapath hdatapath]
    · rw [hdraws]
  exact ⟨p.result s.draws, State.complete_pending hs, hresult ▸ State.complete_pending ht⟩

/-- Settles O50: a snapshot draws only where the mark is clear. -/
theorem snapshotOfMarkedRegister : Obligations.SnapshotOfMarkedRegister :=
  fun _ => ⟨fun _ hm => if_pos hm, fun _ hm => if_pos hm, fun hm => if_pos hm⟩

end Sys2Proof.Machine
end

section
/-! PROOFS. The host loads a whole register, word by word (30_encoding.md R106, 20_memory.md R62 and R63). -/

namespace Sys2Proof.Machine

open Sys2Proof

/-- A run of one step per event, from a state whose next inputs are these events: what each step keeps, counted by the
events so far, holds after all of them. -/
theorem run_events {n : Nat} {event : Nat → Event} {Inv : Nat → State → Prop}
    (hstep : ∀ (k : Nat) (s : State), k < n → Inv k s → s.nextEvent = event k →
      ∃ t, step s = .next t ∧ Inv (k + 1) t ∧ t.inputs = s.inputs.tail)
    {rest : List Event} (m k : Nat) {s : State} (hk : k + m = n) (hinv : Inv k s)
    (hin : s.inputs = (List.range' k m).map event ++ rest) :
    ∃ t, Host.Core.run Sys2Proof.core m s = .next t ∧ Inv n t ∧ t.inputs = rest := by
  induction m generalizing k s with
  | zero => exact ⟨s, rfl, hk ▸ hinv, by simpa using hin⟩
  | succ m ih =>
    have hcons : s.inputs = event k :: ((List.range' (k + 1) m).map event ++ rest) := by
      simpa [List.range'_succ] using hin
    obtain ⟨t, hst, hinv', hin'⟩ := hstep k s (by omega) hinv (State.nextEvent_of_cons hcons)
    rw [core_run_of_step m hst]
    exact ih (k + 1) (by omega) hinv' (by rw [hin', hcons, List.tail_cons])

/-! The words of one register, loaded in order, with their written-since-reset bits (R9, R42). -/

/-- The first `k` words of `u` are those of `v`, and their bits in `b` are set. -/
def WordsLoaded {n m : Nat} (v u : BitVec n) (b : BitVec m) (k : Nat) : Prop :=
  ∀ j : Fin m, j.val < k → wordAt u j = wordAt v j ∧ b.getLsbD j = true

theorem WordsLoaded.zero {n m : Nat} (v u : BitVec n) (b : BitVec m) : WordsLoaded v u b 0 := nofun

/-- Writing the next word loads it and leaves the words before it. -/
theorem WordsLoaded.succ {n m : Nat} {v u : BitVec n} {b : BitVec m} (i : Fin m) (hn : n = 32 * m)
    (h : WordsLoaded v u b i) : WordsLoaded v (setWordAt u i (wordAt v i)) (b ||| (1#m <<< i.val)) (i + 1) := by
  intro j hj
  rw [getLsbD_or_wordBit]
  rcases eq_or_ne j i with rfl | hne
  · simp [wordAt_setWordAt_self u j (wordAt v j) (by omega)]
  · have hval := Fin.val_ne_of_ne hne
    rw [wordAt_setWordAt_ne u i j _ hval (by omega)]
    simpa [hne] using h j (by omega)

/-- With all words loaded the value is the one loaded and all bits are set. -/
theorem WordsLoaded.all {n m : Nat} {v u : BitVec n} {b : BitVec m} (hn : n = 32 * m) (h : WordsLoaded v u b m) :
    u = v ∧ b = BitVec.allOnes m := by
  subst hn
  exact ⟨words_ext u v fun i hi => (h ⟨i, hi⟩ hi).1, (eq_allOnes_iff b).2 fun j => (h j j.isLt).2⟩

/-! `ldf` and `ldx` (R106). -/

theorem isFieldWordAddr_fieldAddr (r : FReg) (i : Fin 6) : IsFieldWordAddr (fieldAddr r i) r i := by
  simp [IsFieldWordAddr, fieldAddr]
  omega

theorem isExtWordAddr_extAddr (r : XReg) (i : Fin 12) : IsExtWordAddr (extAddr r i) r i := by
  simp [IsExtWordAddr, extAddr]
  omega

/-- `s` is idle, the first `k` words of F[r] are loaded from `v`, and the other registers are as in `s₀`. -/
structure FieldLoaded (s₀ : State) (r : FReg) (v : FieldElement) (k : Nat) (s : State) : Prop where
  words : WordsLoaded v s.f[r] s.fWritten[r] k
  others : ∀ q : FReg, q ≠ r → s.f[q] = s₀.f[q]
  x : s.x = s₀.x
  arg : s.arg = s₀.arg
  idle : s.pending = none
  running : s.resetAsserted = false

/-- The same for X[r]. -/
structure ExtLoaded (s₀ : State) (r : XReg) (v : ExtElement) (k : Nat) (s : State) : Prop where
  words : WordsLoaded v s.x[r] s.xWritten[r] k
  others : ∀ q : XReg, q ≠ r → s.x[q] = s₀.x[q]
  f : s.f = s₀.f
  arg : s.arg = s₀.arg
  idle : s.pending = none
  running : s.resetAsserted = false

theorem FieldLoaded.step {s₀ s : State} {r : FReg} {v : FieldElement} (i : Fin 6) (h : FieldLoaded s₀ r v i s)
    (hev : s.nextEvent = .write (fieldAddr r i) (wordAt v i)) :
    ∃ t, step s = .next t ∧ FieldLoaded s₀ r v (i + 1) t ∧ t.inputs = s.inputs.tail := by
  obtain ⟨hwords, hothers, hx, harg, hidle, hrun⟩ := h
  refine ⟨s.consume.writeFieldWord r i (wordAt v i), ?_, ⟨?_, fun q hq => ?_, hx, harg, hidle, hrun⟩, rfl⟩
  · exact (step_of_write hev hrun).trans (hostWrite_fieldWord_idle _ hidle (isFieldWordAddr_fieldAddr r i))
  · simpa using hwords.succ i rfl
  · simpa [Fin.val_inj, hq.symm] using hothers q hq

theorem ExtLoaded.step {s₀ s : State} {r : XReg} {v : ExtElement} (i : Fin 12) (h : ExtLoaded s₀ r v i s)
    (hev : s.nextEvent = .write (extAddr r i) (wordAt v i)) :
    ∃ t, step s = .next t ∧ ExtLoaded s₀ r v (i + 1) t ∧ t.inputs = s.inputs.tail := by
  obtain ⟨hwords, hothers, hf, harg, hidle, hrun⟩ := h
  refine ⟨s.consume.writeExtWord r i (wordAt v i), ?_, ⟨?_, fun q hq => ?_, hf, harg, hidle, hrun⟩, rfl⟩
  · exact (step_of_write hev hrun).trans (hostWrite_extWord_idle _ hidle (isExtWordAddr_extAddr r i))
  · simpa using hwords.succ i rfl
  · simpa [Fin.val_inj, hq.symm] using hothers q hq

/-- Settles O45: each write loads the next word, and the register whose words are all loaded holds the value, marked. -/
theorem hostLoadsARegister : Obligations.HostLoadsARegister := by
  refine ⟨fun r v rest s hidle hrun hin => ?field, fun r v rest s hidle hrun hin => ?ext⟩
  case field =>
    rw [ldf, List.range_eq_range'] at hin
    obtain ⟨t, ht, hloaded, hrest⟩ := run_events (Inv := FieldLoaded s r v)
      (fun k _ hk h hev => h.step ⟨k, hk⟩ hev) 6 0 rfl ⟨.zero _ _ _, fun _ _ => rfl, rfl, rfl, hidle, hrun⟩ hin
    obtain ⟨hval, hmark⟩ := hloaded.words.all rfl
    exact ⟨t, ht, hval, (t.fMarked_iff r).2 hmark, hrest, hloaded.others, hloaded.x, hloaded.arg, hloaded.idle⟩
  case ext =>
    rw [ldx, List.range_eq_range'] at hin
    obtain ⟨t, ht, hloaded, hrest⟩ := run_events (Inv := ExtLoaded s r v)
      (fun k _ hk h hev => h.step ⟨k, hk⟩ hev) 12 0 rfl ⟨.zero _ _ _, fun _ _ => rfl, rfl, rfl, hidle, hrun⟩ hin
    obtain ⟨hval, hmark⟩ := hloaded.words.all rfl
    exact ⟨t, ht, hval, (t.xMarked_iff r).2 hmark, hrest, hloaded.others, hloaded.f, hloaded.arg, hloaded.idle⟩

end Sys2Proof.Machine
end

section
/-! PROOFS. The runs of the add-type commands (40_field_addsub.md R120 to R126) on a ready block: each is accepted,
and completes with what NONCANON makes of its datapath. -/

namespace Sys2Proof.Machine

open Sys2Proof

/-- A ready block runs an add-type command to what NONCANON makes of its datapath (R101, R103, R120). `settled` is the
model's own test, `inputsCanonical` and `rule` what it tests for. -/
theorem runsToField_addType {i : Instr} {s : State} {rd : FReg} {job : Job} {settled : Bool} {datapath : FieldElement}
    {inputsCanonical rule : Prop} {contract value : Nat} (hready : s.ready)
    (hexec : exec i s = .next (s.accept i job))
    (hresult : ∀ n, job.result n = .field rd (nonCanonField settled datapath n))
    (hsettled : settled = true ↔ inputsCanonical ∨ rule)
    (hcontract : inputsCanonical → (nonCanonField settled datapath 0).toNat = contract)
    (hvalue : datapath.toNat = value) :
    RunsToField i s rd fun n v =>
      AddTypeValue inputsCanonical rule contract value (Config.freeField n).toNat v.toNat := by
  have hcanonical (h : inputsCanonical) : datapath.toNat = contract := by
    rw [← hcontract h, nonCanonField_canonical datapath 0 (hsettled.2 (.inl h))]
  exact runsToField_of (hexec.trans (congrArg _ (State.accept_ready i job hready))) hresult
    fun n => nonCanonField_spec settled datapath n _ _ hsettled contract value hcanonical hvalue

theorem canonical_iff_or_false (a : FieldElement) : canonical a = true ↔ a.toNat < primeP ∨ False := by
  rw [canonical_iff, or_false]

/-- Settles O7: the sum of two 192-bit values fits the 193 bits that the correction takes. -/
theorem faddAddsModP : Obligations.FaddAddsModP := fun _ _ _ _ hready =>
  runsToField_addType hready rfl (fun _ => rfl) (by rw [canonical_and_iff, or_false])
    (fun ⟨ha, hb⟩ => faddResult_toNat 0 ha hb) (subPOnce192_toNat _ (by omega))

/-- Settles O8: the datapath is the same correction of a + 1. -/
theorem fadd1AddsOneModP : Obligations.Fadd1AddsOneModP := fun _ _ _ hready =>
  runsToField_addType hready rfl (fun _ => rfl) (canonical_iff_or_false _)
    (fadd1Result_toNat 0) (subPOnce192_toNat _ (by omega))

/-- Settles O9: the slot's flag is the corner case RD = RS1 = RS2. -/
theorem fsubSubtractsModP : Obligations.FsubSubtractsModP := fun rd rs1 rs2 _ hready =>
  runsToField_addType hready rfl (fun _ => rfl) (by rw [fsub_settled_iff]; simp)
    (fun ⟨ha, hb⟩ => fsubResult_toNat (rd == rs1 && rs1 == rs2) 0 ha hb) (fsubDatapath_toNat _ _)

/-- Settles O10: the raw P − a is the remainder of −a where a is not 0. -/
theorem fnegNegatesModP : Obligations.FnegNegatesModP := fun _ _ _ hready =>
  runsToField_addType hready rfl (fun _ => rfl) (canonical_iff_or_false _)
    (fnegResult_toNat 0) (fnegDatapath_toNat _)

/-- Settles O11: the datapath is the same correction of 2a. -/
theorem ftwiceDoublesModP : Obligations.FtwiceDoublesModP := fun _ _ _ hready =>
  runsToField_addType hready rfl (fun _ => rfl) (canonical_iff_or_false _)
    (ftwiceResult_toNat 0) (ftwiceDatapath_toNat _)

/-- Settles O12: the datapath halves a or a + P, whichever is even, and halving is multiplication by (P + 1)/2. -/
theorem fhalfHalvesModP : Obligations.FhalfHalvesModP := fun _ _ _ hready =>
  runsToField_addType hready rfl (fun _ => rfl) (canonical_iff_or_false _)
    (fhalfResult_toNat 0) (fhalfDatapath_toNat _)

end Sys2Proof.Machine
end

section
/-! PROOFS. The laws of the add-type commands (40_field_addsub.md R127): on canonical inputs a result is the canonical
value of its counterpart in the integers modulo P, so that each law is an identity there. -/

namespace Sys2Proof.Machine

open Sys2Proof

/-! The field laws (00_scope.md R15), read in the integers modulo P. -/

theorem FieldLaw.canonical {z : FieldElement} {m : Int} (h : FieldLaw z m) : canonical z = true :=
  (canonical_iff z).2 h.1

theorem FieldLaw.cast {z : FieldElement} {m : Int} (h : FieldLaw z m) : (z.toNat : ZMod primeP) = m := by
  exact_mod_cast (ZMod.intCast_eq_intCast_iff _ _ _).2 h.2

/-- A residue modulo P has one canonical value. -/
theorem FieldLaw.eq_of_cast {z w : FieldElement} {m : Int} (h : FieldLaw z m) (hw : Machine.canonical w = true)
    (hm : (m : ZMod primeP) = w.toNat) : z = w := by
  have hmod : z.toNat % primeP = w.toNat % primeP := (ZMod.natCast_eq_natCast_iff' _ _ _).1 (h.cast.trans hm)
  rw [Nat.mod_eq_of_lt h.1, Nat.mod_eq_of_lt ((canonical_iff w).1 hw)] at hmod
  exact BitVec.eq_of_toNat_eq hmod

theorem two_mul_half_cast : (2 : ZMod primeP) * ((primeP + 1) / 2 : Nat) = 1 := by
  have h := (ZMod.natCast_eq_natCast_iff' (2 * ((primeP + 1) / 2)) 1 primeP).2 two_mul_half_mod
  exact_mod_cast h

section
variable {x y : FieldElement} (n : Nat)

theorem fieldLaw_faddResult (hx : canonical x = true) (hy : canonical y = true) :
    FieldLaw (faddResult x y n) (x.toNat + y.toNat) := by
  rw [canonical_iff] at hx hy
  exact_mod_cast fieldLaw_of_mod (faddResult_toNat n hx hy)

theorem fieldLaw_fadd1Result (hx : canonical x = true) : FieldLaw (fadd1Result x n) (x.toNat + 1) := by
  rw [canonical_iff] at hx
  exact_mod_cast fieldLaw_of_mod (fadd1Result_toNat n hx)

theorem fieldLaw_fsubResult (one : Bool) (hx : canonical x = true) (hy : canonical y = true) :
    FieldLaw (fsubResult one x y n) (x.toNat - y.toNat) := by
  rw [canonical_iff] at hx hy
  exact fieldLaw_of_emod (fsubResult_toNat one n hx hy)

theorem fieldLaw_fnegResult (hx : canonical x = true) : FieldLaw (fnegResult x n) (-x.toNat) := by
  rw [canonical_iff] at hx
  exact fieldLaw_of_emod (fnegResult_toNat n hx)

theorem fieldLaw_ftwiceResult (hx : canonical x = true) : FieldLaw (ftwiceResult x n) (2 * x.toNat) := by
  rw [canonical_iff] at hx
  exact_mod_cast fieldLaw_of_mod (ftwiceResult_toNat n hx)

theorem fieldLaw_fhalfResult (hx : canonical x = true) :
    FieldLaw (fhalfResult x n) (x.toNat * ((primeP + 1) / 2 : Nat)) := by
  rw [canonical_iff] at hx
  exact_mod_cast fieldLaw_of_mod (fhalfResult_toNat n hx)

end

/-! The laws on canonical inputs (R127(b)), for every draw of either command. -/

section
variable {x y : FieldElement} (n m : Nat) (hx : canonical x = true)
include hx

theorem faddResult_fnegResult : faddResult x (fnegResult x n) m = 0 := by
  have hneg := fieldLaw_fnegResult n hx
  refine (fieldLaw_faddResult m hx hneg.canonical).eq_of_cast (by decide) ?_
  push_cast
  rw [hneg.cast]
  simp

theorem fhalfResult_ftwiceResult : fhalfResult (ftwiceResult x n) m = x := by
  have htwice := fieldLaw_ftwiceResult n hx
  refine (fieldLaw_fhalfResult m htwice.canonical).eq_of_cast hx ?_
  simp only [Int.cast_mul, Int.cast_natCast, Int.cast_ofNat, htwice.cast]
  linear_combination (x.toNat : ZMod primeP) * two_mul_half_cast

theorem ftwiceResult_fhalfResult : ftwiceResult (fhalfResult x n) m = x := by
  have hhalf := fieldLaw_fhalfResult n hx
  refine (fieldLaw_ftwiceResult m hhalf.canonical).eq_of_cast hx ?_
  simp only [Int.cast_mul, Int.cast_natCast, Int.cast_ofNat, hhalf.cast]
  linear_combination (x.toNat : ZMod primeP) * two_mul_half_cast

theorem fadd1Result_eq_faddResult_one : fadd1Result x n = faddResult x 1 m := by
  have hadd := fieldLaw_faddResult (y := 1) m hx (by decide)
  refine (fieldLaw_fadd1Result n hx).eq_of_cast hadd.canonical ?_
  rw [hadd.cast]
  simp

theorem fnegResult_fnegResult : fnegResult (fnegResult x n) m = x := by
  have hneg := fieldLaw_fnegResult n hx
  refine (fieldLaw_fnegResult m hneg.canonical).eq_of_cast hx ?_
  push_cast
  rw [hneg.cast]
  simp

theorem fsubResult_eq_faddResult_fnegResult (one : Bool) (hy : canonical y = true) :
    fsubResult one x y n = faddResult x (fnegResult y n) m := by
  have hneg := fieldLaw_fnegResult n hy
  have hadd := fieldLaw_faddResult m hx hneg.canonical
  refine (fieldLaw_fsubResult n one hx hy).eq_of_cast hadd.canonical ?_
  rw [hadd.cast]
  push_cast
  rw [hneg.cast]
  push_cast
  ring

end

/-! The laws that hold beyond canonical inputs (R127(a) and (c), R123, R213). -/

/-- Doubling is adding a value to itself: the datapaths make the same 193-bit sum, and the inputs are the same. -/
theorem ftwiceResult_eq_faddResult (a : FieldElement) (n : Nat) : ftwiceResult a n = faddResult a a n := by
  have hsum : a.toNat <<< 1 = a.toNat + a.toNat := by rw [Nat.shiftLeft_eq]; omega
  rw [ftwiceResult, faddResult, Bool.and_self, ftwiceDatapath, faddDatapath, hsum]

/-- An even value is halved below 2^191, and an odd canonical one to the middle of it and P. -/
theorem canonical_fhalfDatapath {x : FieldElement} (h : canonical x = true ∨ x.toNat % 2 = 0) :
    canonical (fhalfDatapath x) = true := by
  have hx := x.isLt
  rw [canonical_iff] at h ⊢
  rw [fhalfDatapath_toNat]
  rw [primeP_eq] at *
  split <;> omega

theorem fsubDatapath_self (x : FieldElement) : fsubDatapath x x = 0 :=
  BitVec.eq_of_toNat_eq (by
    rw [fsubDatapath_toNat, if_neg (Nat.lt_irrefl _), Nat.sub_self]
    exact BitVec.toNat_zero.symm)

theorem xsubDatapath_self (x : ExtElement) : xsubDatapath x x = 0 :=
  BitVec.eq_of_toNat_eq (by
    rw [xsubDatapath_toNat, if_neg (Nat.lt_irrefl _), Nat.sub_self]
    exact BitVec.toNat_zero.symm)

theorem fsubResult_self {oneReg : Bool} {x : FieldElement} (n : Nat) (h : canonical x = true ∨ oneReg = true) :
    fsubResult oneReg x x n = 0 := by
  rw [canonical_iff] at h
  rw [fsubResult_settled n (h.imp_left fun hx => ⟨hx, hx⟩), fsubDatapath_self]

theorem xsubResult_self {x : ExtElement} (n : Nat) (hx : extCanonical x = true) : xsubResult x x n = 0 := by
  rw [xsubResult, nonCanonExt_canonical _ n (by rw [hx, Bool.and_self]), xsubDatapath_self]

/-- Settles O56: (b) by identities in the integers modulo P, (a) and the rest on the datapaths. -/
theorem addTypeLaws : Obligations.AddTypeLaws := by
  refine ⟨ftwiceResult_eq_faddResult, fun x y one n m hx hy => ?laws, fun x y one n hx hy => ?canonical,
    fun x hx => canonical_fhalfDatapath hx, fun x n => ⟨fsubDatapath_self x, fsubResult_self n (.inr rfl)⟩,
    fun x n => ⟨xsubDatapath_self x, xsubResult_self n⟩⟩
  case laws =>
    exact ⟨faddResult_fnegResult n m hx, fsubResult_self n (.inl hx), fhalfResult_ftwiceResult n m hx,
      ftwiceResult_fhalfResult n m hx, fadd1Result_eq_faddResult_one n m hx, fnegResult_fnegResult n m hx,
      fsubResult_eq_faddResult_fnegResult n m hx one hy⟩
  case canonical =>
    exact ⟨(fieldLaw_faddResult n hx hy).canonical, (fieldLaw_fadd1Result n hx).canonical,
      (fieldLaw_fsubResult n one hx hy).canonical, (fieldLaw_fnegResult n hx).canonical,
      (fieldLaw_ftwiceResult n hx).canonical, (fieldLaw_fhalfResult n hx).canonical⟩

end Sys2Proof.Machine
end

section
/-! PROOFS. The runs of the multiply family (41_multiply.md R161 to R163) on a ready block: every 192-bit input is
allowed, so each completes with its remainder modulo P, whatever the draw. -/

namespace Sys2Proof.Machine

open Sys2Proof

/-- A ready block runs a command that it accepts, and whose result needs no draw, to that result (R101, R103). -/
theorem runsToField_of_accept {i : Instr} {s : State} {rd : FReg} {job : Job} {result : FieldElement}
    {good : Nat → FieldElement → Prop} (hready : s.ready) (hexec : exec i s = .next (s.accept i job))
    (hresult : ∀ n, job.result n = .field rd result) (hgood : ∀ n, good n result) : RunsToField i s rd good :=
  runsToField_of (hexec.trans (congrArg _ (State.accept_ready i job hready))) hresult hgood

/-- With a count that R163 allows, FSQRN is accepted like any other command (R100, R101). -/
theorem exec_fsqrn_of_count_pos (rd rs1 : FReg) {s : State} (hcount : 0 < sint32 s.argOperand) :
    exec (.fsqrn rd rs1) s =
      .next (s.accept (.fsqrn rd rs1) (.fsqrn rd (s.fieldOperand rs1) s.argOperand)) := by
  rw [exec, execFsqrn, if_neg (Int.not_le.2 hcount), State.accept]

/-- Settles O13: the 384-bit product is exact, and the pipeline reduces it. -/
theorem fmulMultipliesModP : Obligations.FmulMultipliesModP := fun _ _ _ _ hready =>
  runsToField_of_accept hready rfl (fun _ => rfl) fun _ => fmulResult_toNat _ _

/-- Settles O14: a square is such a product. -/
theorem fsqrSquaresModP : Obligations.FsqrSquaresModP := fun _ _ _ hready =>
  runsToField_of_accept hready rfl (fun _ => rfl) fun _ => fsqrResult_toNat _

/-- Settles O15: the count is positive, so PRECOND is not raised, and n squarings raise a to the power 2^n. -/
theorem fsqrnSquaresRepeatedly : Obligations.FsqrnSquaresRepeatedly := fun rd rs1 _ hready hcount =>
  runsToField_of_accept hready (exec_fsqrn_of_count_pos rd rs1 hcount) (fun _ => rfl)
    fun _ => fsqrnResult_toNat _ hcount

end Sys2Proof.Machine
end

section
/-! PROOFS. The reduction pipeline stage by stage and its laws (42_reduce.md R182 to R185 and R188), and the runs of FRED
and FRED32 on a ready block (R186, R187): every input is allowed, so each completes with its remainder modulo P. -/

namespace Sys2Proof.Machine

open Sys2Proof

set_option exponentiation.threshold 500

/-- Settles O52: the carry 3 is reached at the largest 384-bit value. -/
theorem foldKeepsTheResidue : Obligations.FoldKeepsTheResidue :=
  ⟨fun xx => ⟨fold_mod xx, fold_value_le xx, fold_carry_le xx⟩, by decide⟩

/-- Settles O53: the ripple through the six words is one exact sum. -/
theorem carryFoldIsExact : Obligations.CarryFoldIsExact := fun x z hx => ⟨carryFold_eq x z, carryFold_lt z hx⟩

/-- Settles O54: adding 2^64 + 1 modulo 2^192 subtracts P, and below 2P once is enough. -/
theorem correctIsOneSubtraction : Obligations.CorrectIsOneSubtraction :=
  ⟨fun _ => correct_eq_subPOnce192, fun _ => correct_toNat⟩

theorem canonical_reduce (xx : ExtElement) : canonical (reduce xx) = true := by
  rw [canonical_iff, reduce_toNat]
  exact Nat.mod_lt _ (by decide)

/-- Settles O55: stage 1 keeps the residue with a carry of at most 3, from which stage 2 takes the remainder. -/
theorem reduceIsModP : Obligations.ReduceIsModP := fun xx => ⟨rfl, reduce_toNat xx, canonical_reduce xx⟩

/-- Stage 2 alone, with a carry word from the host (R187). -/
theorem reduce32_toNat (x : Word) (z : FieldElement) :
    (reduce32 x z).toNat = (x.toNat * 2 ^ 192 + z.toNat) % primeP :=
  correct_carryFold_toNat z x.isLt

theorem reduce32_zero_toNat (z : FieldElement) : (reduce32 0 z).toNat = z.toNat % primeP := by
  simpa using reduce32_toNat 0 z

/-- FCANON (R211): every value at or above P has P's top word, and is below 2P. -/
theorem fcanonResult_toNat (a : FieldElement) : (fcanonResult a).toNat = a.toNat % primeP := by
  have ha := a.isLt
  have htop : (wordAt a 5 = topWordP ∧ a.toNat ≥ primeP) ↔ a.toNat ≥ primeP :=
    ⟨And.right, fun h => ⟨topWord_of_ge a h, h⟩⟩
  simp only [fcanonResult, htop]
  rw [primeP_eq]
  split_ifs with hge
  · rw [BitVec.toNat_ofNat]
    omega
  · omega

/-! The laws of the pipeline (R188). -/

/-- (a): Reduce tells no two values apart that differ by a multiple of P. -/
theorem reduce_eq_of_toNat_eq_add_mul {xx yy : ExtElement} {k : Nat} (h : yy.toNat = xx.toNat + k * primeP) :
    reduce yy = reduce xx :=
  BitVec.eq_of_toNat_eq (by rw [reduce_toNat, reduce_toNat, h, Nat.add_mul_mod_self_right])

/-- (c), the general entry and the canonicalizing one. -/
theorem reduce_setWidth (z : FieldElement) : reduce (z.setWidth 384) = fcanonResult z :=
  BitVec.eq_of_toNat_eq (by
    rw [reduce_toNat, fcanonResult_toNat, BitVec.toNat_setWidth_of_le (by decide)])

/-- (c), the canonicalizing entry and the folding one. -/
theorem fcanonResult_eq_reduce32_zero (z : FieldElement) : fcanonResult z = reduce32 0 z :=
  BitVec.eq_of_toNat_eq (by rw [fcanonResult_toNat, reduce32_zero_toNat])

/-- (d): a carry word above a 192-bit value fits 224 bits, so the 384-bit value is exact. -/
theorem reduce32_eq_reduce (x : Word) (z : FieldElement) :
    reduce32 x z = reduce (BitVec.ofNat 384 (x.toNat * 2 ^ 192 + z.toNat)) := by
  have hx := x.isLt
  have hz := z.isLt
  have hfits : x.toNat * 2 ^ 192 + z.toNat < 2 ^ 384 := by omega
  refine BitVec.eq_of_toNat_eq ?_
  rw [reduce32_toNat, reduce_toNat, BitVec.toNat_ofNat, Nat.mod_eq_of_lt hfits]

/-- (e): a canonical value is its own remainder. -/
theorem reduce32_zero_of_canonical {z : FieldElement} (hz : canonical z = true) : reduce32 0 z = z :=
  BitVec.eq_of_toNat_eq (by rw [reduce32_zero_toNat, Nat.mod_eq_of_lt ((canonical_iff z).1 hz)])

/-- Settles O57: every entry is a remainder modulo P, so the laws are those of remainders. -/
theorem pipelineLaws : Obligations.PipelineLaws :=
  ⟨fun _ _ _ => reduce_eq_of_toNat_eq_add_mul, fmulResult_toNat,
    fun z => ⟨reduce_setWidth z, fcanonResult_eq_reduce32_zero z, reduce32_zero_toNat z⟩,
    reduce32_eq_reduce, fun _ => reduce32_zero_of_canonical⟩

/-! The two commands. -/

/-- With a legal extended index FRED is accepted like any other command (R96, R101). -/
theorem exec_fred_of_extIndex (rd : FReg) {rs1 : Fin 16} {r : XReg} (s : State) (hr : extIndex rs1 = some r) :
    exec (.fred rd rs1) s = .next (s.accept (.fred rd rs1) (.fred rd (s.extOperand r))) := by
  rw [exec, execFred, hr]

/-- Settles O16: FRED's result is Reduce of the snapshot. -/
theorem fredReducesModP : Obligations.FredReducesModP := fun rd _ _ s hready hr =>
  runsToField_of_accept hready (exec_fred_of_extIndex rd s hr) (fun _ => rfl) fun _ => reduce_toNat _

/-- Settles O17: FRED32's result is stage 2 of the snapshot, with ARG as the carry word. -/
theorem fred32FoldsCarryModP : Obligations.Fred32FoldsCarryModP := fun _ _ hready =>
  runsToField_of_accept hready rfl (fun _ => rfl) fun _ => reduce32_toNat _ _

end Sys2Proof.Machine
end

section
/-! PROOFS. The canonicalizing entry and the extended-width commands on a ready block (43_canon_ext.md R210 to R213):
FCANON completes with the remainder modulo P, XADD and XSUB with what NONCANON makes of their datapaths, and what the
latter accumulate below PExt reduces to the field's sum and difference (R214). -/

namespace Sys2Proof.Machine

open Sys2Proof

set_option exponentiation.threshold 500

/-! The contracts: the remainder modulo PExt for inputs below PExt, for every draw. -/

/-- The correction of a sum below 2·PExt is its remainder (R13). -/
theorem subPExtOnce384_toNat_mod {s : Nat} (h : s < 2 * primePExt) : (subPExtOnce384 s).toNat = s % primePExt := by
  unfold primePExt at h
  rw [subPExtOnce384_toNat s (by omega)]
  unfold primePExt
  split_ifs <;> omega

/-- XADD's contract (R212). -/
theorem xaddResult_toNat {a b : ExtElement} (n : Nat) (ha : a.toNat < primePExt) (hb : b.toNat < primePExt) :
    (xaddResult a b n).toNat = (a.toNat + b.toNat) % primePExt := by
  rw [xaddResult, nonCanonExt_canonical _ n ((extCanonical_and_iff a b).2 ⟨ha, hb⟩), xaddDatapath,
    subPExtOnce384_toNat_mod (by omega)]

/-- XSUB's contract (R213). -/
theorem xsubResult_toNat {a b : ExtElement} (n : Nat) (ha : a.toNat < primePExt) (hb : b.toNat < primePExt) :
    (xsubResult a b n).toNat = (((a.toNat : Int) - b.toNat) % primePExt).toNat := by
  rw [xsubResult, nonCanonExt_canonical _ n ((extCanonical_and_iff a b).2 ⟨ha, hb⟩), xsubDatapath_toNat]
  unfold primePExt at *
  split <;> omega

/-! The commands. -/

/-- Settles O18: one subtraction of P takes the remainder of every 192-bit value. -/
theorem fcanonReducesModP : Obligations.FcanonReducesModP := fun _ _ _ hready =>
  runsToField_of_accept hready rfl (fun _ => rfl) fun _ => fcanonResult_toNat _

/-- A ready block runs an extended add-type command on operands `a` and `b` to what NONCANON makes of its datapath
(R101, R103, R210). -/
theorem runsToExt_addType {i : Instr} {s : State} {rd : XReg} {job : Job} {a b datapath : ExtElement}
    {contract value : Nat} (hready : s.ready) (hexec : exec i s = .next (s.accept i job))
    (hresult : ∀ n, job.result n = .ext rd (nonCanonExt (extCanonical a && extCanonical b) datapath n))
    (hcontract : a.toNat < primePExt → b.toNat < primePExt →
      (nonCanonExt (extCanonical a && extCanonical b) datapath 0).toNat = contract)
    (hvalue : datapath.toNat = value) :
    RunsToExt i s rd fun n v =>
      AddTypeValue (a.toNat < primePExt ∧ b.toNat < primePExt) False contract value (Config.freeExt n).toNat
        v.toNat := by
  have hcanonical : a.toNat < primePExt ∧ b.toNat < primePExt → datapath.toNat = contract := fun h => by
    rw [← hcontract h.1 h.2, nonCanonExt_canonical datapath 0 ((extCanonical_and_iff a b).2 h)]
  have hsettled : (extCanonical a && extCanonical b) = true ↔
      (a.toNat < primePExt ∧ b.toNat < primePExt) ∨ False := by rw [extCanonical_and_iff, or_false]
  exact runsToExt_of (hexec.trans (congrArg _ (State.accept_ready i job hready))) hresult
    fun n => nonCanonExt_spec _ datapath n _ _ hsettled contract value hcanonical hvalue

section
variable {rd rs1 rs2 : Fin 16} {d r1 r2 : XReg} (s : State)

/-- With legal extended indices XADD is accepted like any other command (R96, R101). -/
theorem exec_xadd_of_extIndex (hd : extIndex rd = some d) (h1 : extIndex rs1 = some r1) (h2 : extIndex rs2 = some r2) :
    exec (.xadd rd rs1 rs2) s =
      .next (s.accept (.xadd rd rs1 rs2) (.xadd d (s.extOperand r1) (s.extOperand r2))) := by
  rw [exec, execXadd, hd, h1, h2]

/-- With legal extended indices XSUB is accepted like any other command (R96, R101). -/
theorem exec_xsub_of_extIndex (hd : extIndex rd = some d) (h1 : extIndex rs1 = some r1) (h2 : extIndex rs2 = some r2) :
    exec (.xsub rd rs1 rs2) s =
      .next (s.accept (.xsub rd rs1 rs2) (.xsub d (s.extOperand r1) (s.extOperand r2))) := by
  rw [exec, execXsub, hd, h1, h2]

end

/-- Settles O19: the sum of two 384-bit values fits the 385 bits that the correction takes. -/
theorem xaddAddsModPExt : Obligations.XaddAddsModPExt := fun _ _ _ _ _ _ s hready hd h1 h2 =>
  runsToExt_addType hready (exec_xadd_of_extIndex s hd h1 h2) (fun _ => rfl) (xaddResult_toNat 0)
    (subPExtOnce384_toNat _ (by omega))

/-- Settles O20: on a borrow the addition of PExt makes the difference its remainder. -/
theorem xsubSubtractsModPExt : Obligations.XsubSubtractsModPExt := fun _ _ _ _ _ _ s hready hd h1 h2 =>
  runsToExt_addType hready (exec_xsub_of_extIndex s hd h1 h2) (fun _ => rfl) (xsubResult_toNat 0)
    (xsubDatapath_toNat _ _)

/-! Accumulation (R214): PExt is a multiple of P, so a remainder modulo PExt keeps the residue modulo P. -/

theorem extCanonical_iff (a : ExtElement) : extCanonical a = true ↔ a.toNat < primePExt := by simp [extCanonical]

theorem primeP_dvd_primePExt : primeP ∣ primePExt := primePExt_eq_mul ▸ Nat.dvd_mul_right primeP primeP

theorem reduce_toNat_of_mod {xx : ExtElement} {m : Nat} (h : xx.toNat = m % primePExt) :
    (reduce xx).toNat = m % primeP := by
  rw [reduce_toNat, h, Nat.mod_mod_of_dvd m primeP_dvd_primePExt]

theorem reduce_toNat_of_emod {xx : ExtElement} {m : Int} (h : xx.toNat = (m % primePExt).toNat) :
    (reduce xx).toNat = (m % primeP).toNat := by
  have hpos : (0 : Int) < primePExt := by decide
  have hxx : (xx.toNat : Int) = m % primePExt := by rw [h, Int.toNat_of_nonneg (Int.emod_nonneg m hpos.ne')]
  calc (reduce xx).toNat = ((xx.toNat : Int) % primeP).toNat := by rw [reduce_toNat]; norm_cast
    _ = (m % primeP).toNat := by
      rw [hxx, Int.emod_emod_of_dvd m (Int.natCast_dvd_natCast.2 primeP_dvd_primePExt)]

/-- Settles O58: both results are remainders modulo PExt. -/
theorem extendedAccumulation : Obligations.ExtendedAccumulation := by
  intro a b n ha hb
  rw [extCanonical_iff] at ha hb
  have hadd := xaddResult_toNat n ha hb
  have hsub := xsubResult_toNat n ha hb
  refine ⟨reduce_toNat_of_mod hadd, reduce_toNat_of_emod hsub, ?add, ?sub⟩
  case add =>
    rw [extCanonical_iff, hadd]
    exact Nat.mod_lt _ (by decide)
  case sub =>
    have hlt : ((a.toNat : Int) - b.toNat) % primePExt < primePExt := Int.emod_lt_of_pos _ (by decide)
    rw [extCanonical_iff, hsub]
    omega

end Sys2Proof.Machine
end

section
/-! PROOFS. The fault state (60_exceptions.md R240 to R248 and R250) and the model outcome UNINIT (R258(a)): what the
checks of acceptance and of a guarded port write record, and what a step other than the assertion of reset makes of the
fault record, the slot and UNINIT. -/

namespace Sys2Proof.Machine

open Sys2Proof

/-- Settles O26, by the two cases of R241. -/
theorem firstFaultIsKept : Obligations.FirstFaultIsKept := fun _ code info =>
  ⟨State.raiseFault_first code info, State.raiseFault_later code info⟩

@[simp] theorem State.raiseFault_uninit (s : State) (code : ErrCode) (info : Word) :
    (s.raiseFault code info).uninit = s.uninit := by rw [State.raiseFault_frame]

/-! A delivered word, legal or not, meets the checks of acceptance first (30_encoding.md R101, R246). -/

theorem State.checked_of_err {s : State} (word : Word) (taken : State) (herr : s.err = true) :
    s.checked word taken = s := if_pos herr

theorem State.checked_of_pending {s : State} {p : Pending} (word : Word) (taken : State) (herr : s.err = false)
    (hp : s.pending = some p) :
    s.checked word taken = { s with err := true, errCode := .busyCmd, errInfo := word } := by
  simp [State.checked, herr, State.busy_of_pending hp, State.raiseFault_first]

theorem deliverCommand_eq_checked (w : Word) (s : State) :
    ∃ taken, deliverCommand w s = .next (s.checked w taken) := by
  by_cases hdec : ∃ i, decode w = .ok i
  · obtain ⟨i, hdec⟩ := hdec
    obtain ⟨taken, hexec, -⟩ := exec_shape i s
    exact ⟨taken, by rw [deliverCommand_of_decode s hdec, hexec, (encode_of_decode hdec).1]⟩
  · exact ⟨_, deliverCommand_of_not_decode s hdec⟩

/-- Settles O23: ERR = 1 is the first check. -/
theorem commandIgnoredWhileErr : Obligations.CommandIgnoredWhileErr := by
  intro w s herr
  obtain ⟨taken, hdeliver⟩ := deliverCommand_eq_checked w s
  rw [hdeliver, State.checked_of_err w taken herr]

/-- Settles O24: BUSY = 1 is the second check, and completion does not look at the fault record. -/
theorem commandWhileBusyRaisesBusyCmd : Obligations.CommandWhileBusyRaisesBusyCmd := by
  intro w p s herr hp
  obtain ⟨taken, hdeliver⟩ := deliverCommand_eq_checked w s
  rw [State.checked_of_pending w taken herr hp] at hdeliver
  exact ⟨_, hdeliver, rfl, complete_with_fault s true .busyCmd w⟩

/-! A write that needs BUSY = 0 (R245, 20_memory.md R66). -/

theorem hostWrite_of_guarded {a : PortAddr} (v : Word) (s : State) (ha : GuardedAddr a) :
    ∃ landed, hostWrite a v s = .next (s.portWrite a landed) := by
  rcases portTarget_guarded ha with ht | ⟨r, i, ht⟩ | ⟨r, i, ht⟩ <;> exact ⟨_, by rw [hostWrite, ht]⟩

theorem hostWrite_of_guarded_busy {a : PortAddr} {s : State} {p : Pending} (v : Word) (hp : s.pending = some p)
    (ha : GuardedAddr a) : hostWrite a v s = .next (s.raiseFault .portBusy (BitVec.ofNat 32 a.toNat)) := by
  obtain ⟨landed, hwrite⟩ := hostWrite_of_guarded v s ha
  rw [hwrite, State.portWrite, if_pos (State.busy_of_pending hp), BitVec.ofNat_toNat]

/-- Settles O25: the dropped write only raises the fault, which completion does not look at. -/
theorem portWriteWhileBusyRaisesPortBusy : Obligations.PortWriteWhileBusyRaisesPortBusy := by
  intro a v p s hp ha
  have hwrite := hostWrite_of_guarded_busy v hp ha
  refine ⟨fun herr => ?later, fun herr => ?first⟩
  case later => rw [hwrite, State.raiseFault_later _ _ herr]
  case first =>
    rw [State.raiseFault_first _ _ herr] at hwrite
    exact ⟨_, hwrite, rfl, complete_with_fault s true .portBusy _⟩

/-! Every access is answered (R240). -/

theorem exists_hostWrite_next (a : PortAddr) (v : Word) (s : State) : ∃ t, hostWrite a v s = .next t := by
  rcases hostWrite_shape a v s with ⟨hcmd, -⟩ | hnone | ⟨landed, hguard, -⟩
  · obtain ⟨taken, hdeliver⟩ := deliverCommand_eq_checked v s
    exact ⟨_, hcmd.trans hdeliver⟩
  · exact ⟨_, hnone⟩
  · exact ⟨_, hguard⟩

/-- Settles O29, by the command's shape and by the event the step meets. -/
theorem everyStepAnswersNext : Obligations.EveryStepAnswersNext := by
  refine ⟨fun i s => ?exec, fun s => ?step⟩
  case exec =>
    obtain ⟨taken, hexec, -⟩ := exec_shape i s
    exact ⟨_, hexec⟩
  case step =>
    cases hev : s.nextEvent with
    | read a => exact ⟨_, step_of_read hev⟩
    | write a v =>
      cases hr : s.resetAsserted with
      | true => exact ⟨_, step_of_write_in_reset hev hr⟩
      | false => exact step_of_write hev hr ▸ exists_hostWrite_next a v s.consume
    | blockStep => exact ⟨_, step_of_blockStep hev⟩
    | assertReset => exact ⟨_, step_of_assertReset hev⟩
    | releaseReset => exact ⟨_, step_of_releaseReset hev⟩

/-! The verdicts of an acceptance, in R246's order. -/

/-- What the delivery of the word of `i` makes of a state (R101, R246). -/
inductive Verdict (i : Instr) (s : State) : State → Prop where
  | ignored (herr : s.err = true) : Verdict i s s
  | busyCmd (herr : s.err = false) : Verdict i s (s.raiseFault .busyCmd (encode i))
  | illegal (hready : s.ready) : Verdict i s (s.raiseFault .illegal (encode i))
  | precond (hready : s.ready) {rd rs1 : FReg} (hi : i = .fsqrn rd rs1) (hcount : sint32 s.argOperand ≤ 0) :
    Verdict i s (s.raiseFault .precond (encode i))
  | launched (hready : s.ready) (job : Job) : Verdict i s (s.launch i job)

theorem verdict_of_exec {i : Instr} {s t : State} (h : exec i s = .next t) : Verdict i s t := by
  obtain ⟨taken, hexec, hshape⟩ := exec_shape i s
  cases hexec.symm.trans h
  cases herr : s.err with
  | true =>
    rw [State.checked_of_err _ _ herr]
    exact .ignored herr
  | false =>
    cases hp : s.pending with
    | some p =>
      rw [State.checked_of_pending _ _ herr hp, ← State.raiseFault_first _ _ herr]
      exact .busyCmd herr
    | none =>
      rw [State.checked_ready _ _ ⟨herr, hp⟩]
      rcases hshape with ⟨job, rfl, -⟩ | ⟨rfl, -⟩ | ⟨rd, rs1, hi, hcount, rfl⟩
      · exact .launched ⟨herr, hp⟩ job
      · exact .illegal ⟨herr, hp⟩
      · exact .precond ⟨herr, hp⟩ hi hcount

/-- With a count that R163 does not allow, a ready block rejects FSQRN (R243). -/
theorem exec_fsqrn_of_count_nonpos (rd rs1 : FReg) {s : State} (hready : s.ready) (hcount : sint32 s.argOperand ≤ 0) :
    exec (.fsqrn rd rs1) s =
      .next { s with err := true, errCode := .precond, errInfo := encode (.fsqrn rd rs1) } := by
  rw [exec, execFsqrn, if_pos hcount, State.checked_ready _ _ hready, State.raiseFault_first _ _ hready.1]

/-- Settles O22: of the five verdicts only FSQRN's own records PRECOND. -/
theorem fsqrnCountRaisesPrecond : Obligations.FsqrnCountRaisesPrecond := by
  refine ⟨fun rd rs1 s => exec_fsqrn_of_count_nonpos rd rs1, fun i s t hold h hnew => ?_⟩
  cases verdict_of_exec h with
  | ignored => exact absurd hnew hold
  | busyCmd herr => simp [State.raiseFault_first _ _ herr] at hnew
  | illegal hready => simp [State.raiseFault_first _ _ hready.1] at hnew
  | @precond hready rd rs1 hi hcount => exact ⟨rd, rs1, hi, hcount⟩
  | launched => exact absurd hnew hold

/-! What a step other than the assertion of reset makes of the fault record, the slot and UNINIT. -/

/-- ERR, ERRCODE and ERRINFO (R241). -/
def State.faultRecord (s : State) : Bool × ErrCode × Word := (s.err, s.errCode, s.errInfo)

theorem State.faultRecord_eq_iff {s t : State} : t.faultRecord = s.faultRecord ↔
    t.err = s.err ∧ t.errCode = s.errCode ∧ t.errInfo = s.errInfo := by simp [State.faultRecord]

/-- Nothing new is recorded, the first fault is, or a ready block accepts the command it is sent. -/
inductive StatusStep (s : State) : State → Prop where
  /-- no new record; a completion empties the slot -/
  | kept {t : State} (hrecord : t.faultRecord = s.faultRecord) (huninit : t.uninit = s.uninit)
    (hp : t.pending = s.pending ∨ t.pending = none) : StatusStep s t
  /-- the first fault -/
  | faulted {t : State} (hfirst : s.err = false) (huninit : t.uninit = s.uninit) (hp : t.pending = s.pending) :
    StatusStep s t
  /-- an accepted command -/
  | launched {w : Word} {i : Instr} (hev : s.nextEvent = .write 0x000 w) (hdec : decode w = .ok i) (hready : s.ready)
    (job : Job) : StatusStep s (s.consume.launch i job)

theorem statusStep_raiseFault (s : State) (code : ErrCode) (info : Word) :
    StatusStep s (s.consume.raiseFault code info) := by
  cases herr : s.err with
  | true =>
    rw [State.raiseFault_later code info (by simpa using herr)]
    exact .kept rfl rfl (.inl rfl)
  | false => exact .faulted herr (by simp) (by simp)

/-- A word written to CMD: only one that decodes can be accepted (R101). -/
theorem statusStep_of_deliverCommand {s t : State} {w : Word} (hev : s.nextEvent = .write 0x000 w)
    (h : deliverCommand w s.consume = .next t) : StatusStep s t := by
  by_cases hdec : ∃ i, decode w = .ok i
  · obtain ⟨i, hdec⟩ := hdec
    cases verdict_of_exec ((deliverCommand_of_decode s.consume hdec).symm.trans h) with
    | ignored => exact .kept rfl rfl (.inl rfl)
    | busyCmd | illegal | precond => exact statusStep_raiseFault s _ _
    | launched hready job => exact .launched hev hdec hready job
  · cases (deliverCommand_of_not_decode s.consume hdec).symm.trans h
    unfold State.rejectIllegal State.checked
    split_ifs
    · exact .kept rfl rfl (.inl rfl)
    · exact statusStep_raiseFault s _ _
    · exact statusStep_raiseFault s _ _

/-- A host write: one that lands records nothing, and one that is dropped raises a fault (R66, R245). -/
theorem statusStep_of_hostWrite {s t : State} {a : PortAddr} {v : Word} (hev : s.nextEvent = .write a v)
    (h : hostWrite a v s.consume = .next t) : StatusStep s t := by
  rcases hostWrite_shape a v s.consume with ⟨hcmd, ha⟩ | hnone | ⟨landed, hguard, -, hlanded⟩
  · obtain rfl : a = 0x000 := BitVec.eq_of_toNat_eq ha
    exact statusStep_of_deliverCommand hev (hcmd.symm.trans h)
  · cases hnone.symm.trans h
    exact .kept rfl rfl (.inl rfl)
  · cases hguard.symm.trans h
    rcases State.portWrite_cases s.consume a landed with ⟨-, hwrite⟩ | ⟨-, hdrop⟩
    · rw [hwrite]
      rcases hlanded with ⟨rfl, -⟩ | ⟨r, i, rfl, -⟩ | ⟨r, i, rfl, -⟩ <;> exact .kept rfl rfl (.inl rfl)
    · exact hdrop ▸ statusStep_raiseFault s _ _

theorem statusStep_complete (s : State) : StatusStep s s.consume.complete := by
  obtain ⟨herr, hcode, hinfo, huninit, hp, -⟩ := complete_frame s.consume
  exact .kept (State.faultRecord_eq_iff.2 ⟨herr, hcode, hinfo⟩) huninit (.inr hp)

/-- Every step but the assertion of reset, by its event. -/
theorem statusStep_of_step {s t : State} (hne : s.nextEvent ≠ .assertReset) (h : step s = .next t) :
    StatusStep s t := by
  cases hev : s.nextEvent with
  | read a =>
    cases (step_of_read hev).symm.trans h
    exact .kept rfl rfl (.inl rfl)
  | write a v =>
    cases hr : s.resetAsserted with
    | true =>
      cases (step_of_write_in_reset hev hr).symm.trans h
      exact .kept rfl rfl (.inl rfl)
    | false => exact statusStep_of_hostWrite hev ((step_of_write hev hr).symm.trans h)
  | blockStep =>
    cases (step_of_blockStep hev).symm.trans h
    exact statusStep_complete s
  | assertReset => exact absurd hev hne
  | releaseReset =>
    cases (step_of_releaseReset hev).symm.trans h
    exact .kept rfl rfl (.inl rfl)

/-- Settles O27: with ERR = 1 a step neither records a first fault nor accepts a command. -/
theorem faultIsStickyUntilReset : Obligations.FaultIsStickyUntilReset := by
  intro s t herr hne h
  cases statusStep_of_step hne h with
  | kept hrecord _ hp =>
    obtain ⟨he, hc, hi⟩ := State.faultRecord_eq_iff.1 hrecord
    exact ⟨he.trans herr, hc, hi, hp⟩
  | faulted hfirst => exact absurd (herr.symm.trans hfirst) (by decide)
  | launched _ _ hready => exact absurd (herr.symm.trans hready.1) (by decide)

/-! UNINIT (R258(a), 10_state.md R42). -/

@[simp] theorem State.uninitRead_consume (s : State) (i : Instr) : s.consume.uninitRead i = s.uninitRead i := rfl

/-- Where no slot is filled, no UNINIT is newly recorded. -/
theorem uninit_iff_of_slot_not_filled {s t : State} {read : Prop} (huninit : t.uninit = s.uninit)
    (hp : t.pending = s.pending ∨ t.pending = none) :
    t.uninit = true ↔ s.uninit = true ∨ s.pending = none ∧ t.pending ≠ none ∧ read := by
  rcases hp with hp | hp <;> simp +contextual [huninit, hp]

/-- The acceptance of a command records UNINIT exactly when it fills the slot with an unmarked register read. -/
theorem exec_uninit_iff {i : Instr} {s t : State} (h : exec i s = .next t) :
    t.uninit = true ↔ s.uninit = true ∨ s.pending = none ∧ t.pending ≠ none ∧ s.uninitRead i = true := by
  cases verdict_of_exec h with
  | ignored => exact uninit_iff_of_slot_not_filled rfl (.inl rfl)
  | busyCmd | illegal | precond =>
    exact uninit_iff_of_slot_not_filled (s.raiseFault_uninit _ _) (.inl (s.raiseFault_pending _ _))
  | launched hready job => simp [hready.2]

/-- A step other than the assertion of reset records UNINIT exactly when it is such an acceptance. -/
theorem step_uninit_iff {s t : State} (hne : s.nextEvent ≠ .assertReset) (h : step s = .next t) :
    t.uninit = true ↔ s.uninit = true ∨ s.pending = none ∧ t.pending ≠ none ∧
      ∃ w i, s.nextEvent = .write 0x000 w ∧ decode w = .ok i ∧ s.uninitRead i = true := by
  cases statusStep_of_step hne h with
  | kept _ huninit hp => exact uninit_iff_of_slot_not_filled huninit hp
  | faulted _ huninit hp => exact uninit_iff_of_slot_not_filled huninit (.inl hp)
  | launched hev hdec hready job => simp [hev, hdec, hready.2]

theorem State.outcome_eq_uninit_iff (s : State) : s.outcome = .uninit ↔ s.uninit = true := by
  unfold State.outcome
  split_ifs <;> simp_all

/-- Settles O59: the first two clauses are read off `State.uninitRead`, the others come from what an acceptance and a
step make of UNINIT. -/
theorem uninitRecordsAnUnmarkedOperand : Obligations.UninitRecordsAnUnmarkedOperand := by
  refine ⟨fun s d a b => ?field, fun s d a b q r ha hb => ?ext, fun i s t => exec_uninit_iff,
    fun s t => step_uninit_iff, State.outcome_eq_uninit_iff⟩
  case field => simp [State.uninitRead]
  case ext => simp [State.uninitRead, ha, hb]

end Sys2Proof.Machine
end

section
/-! PROOFS. Reset and the port while it is asserted (70_reset_and_hazards.md R270, R271, R273), and the completion of an
accepted command whatever port accesses come before it (R282, 20_memory.md R72, 30_encoding.md R103). -/

namespace Sys2Proof.Machine

open Sys2Proof

/-! Reset asserted (R270, R271). -/

theorem State.assertReset_statusWord (s : State) : s.assertReset.statusWord = 0 := by
  simp [State.statusWord, State.busy, ErrCode.bits]

theorem State.assertReset_fMarked (s : State) (r : FReg) : s.assertReset.fMarked r = false := by simp [State.fMarked]

theorem State.assertReset_xMarked (s : State) (r : XReg) : s.assertReset.xMarked r = false := by simp [State.xMarked]

theorem State.assertReset_releaseReset_ready (s : State) : s.assertReset.releaseReset.ready := ⟨rfl, rfl⟩

/-- Settles O47: the fields of the state with reset asserted, and then released, read off. -/
theorem assertResetClears : Obligations.AssertResetClears := fun s _ hin =>
  ⟨s.consume.assertReset, step_of_assertReset (State.nextEvent_of_cons hin), s.consume.assertReset_statusWord,
    rfl, rfl, rfl, s.consume.assertReset_fMarked, s.consume.assertReset_xMarked, rfl, rfl,
    s.consume.assertReset_releaseReset_ready, rfl⟩

/-- Settles O48: a write in reset only takes the event, and a read also leaves its reply. -/
theorem portIsDeadDuringReset : Obligations.PortIsDeadDuringReset := by
  rintro s t hr (⟨a, v, hev⟩ | ⟨a, hev⟩) h
  · cases (step_of_write_in_reset hev hr).symm.trans h
    rfl
  · cases (step_of_read hev).symm.trans h
    rfl

/-! A command in flight: only its completion takes it out of the slot, unless reset does (R72, R282). -/

@[simp] theorem State.raiseFault_inputs (s : State) (code : ErrCode) (info : Word) :
    (s.raiseFault code info).inputs = s.inputs := by rw [State.raiseFault_frame]

/-- A host write while BUSY = 1 raises a fault or does nothing (20_memory.md R64, R66, 30_encoding.md R101). -/
theorem hostWrite_of_pending {s : State} {p : Pending} (a : PortAddr) (v : Word) (hp : s.pending = some p) :
    hostWrite a v s = .next s ∨ ∃ code info, hostWrite a v s = .next (s.raiseFault code info) := by
  rcases hostWrite_shape a v s with ⟨hcmd, -⟩ | hnone | ⟨-, -, ha, -⟩
  · obtain ⟨taken, hdeliver⟩ := deliverCommand_eq_checked v s
    have hwrite := hcmd.trans hdeliver
    cases herr : s.err with
    | true => exact .inl (by rw [hwrite, State.checked_of_err _ _ herr])
    | false =>
      rw [State.checked_of_pending _ _ herr hp, ← State.raiseFault_first _ _ herr] at hwrite
      exact .inr ⟨_, _, hwrite⟩
  · exact .inl hnone
  · exact .inr ⟨_, _, hostWrite_of_guarded_busy v hp ha⟩

/-- A step that is neither a completion nor a reset takes its event and keeps the slot. -/
theorem step_keeps_pending {s : State} {p : Pending} (hp : s.pending = some p) (hblock : s.nextEvent ≠ .blockStep)
    (hreset : s.nextEvent ≠ .assertReset) :
    ∃ t, step s = .next t ∧ t.pending = some p ∧ t.inputs = s.inputs.tail := by
  cases hev : s.nextEvent with
  | read a => exact ⟨_, step_of_read hev, hp, rfl⟩
  | write a v =>
    cases hr : s.resetAsserted with
    | true => exact ⟨_, step_of_write_in_reset hev hr, hp, rfl⟩
    | false =>
      rw [step_of_write hev hr]
      rcases hostWrite_of_pending (s := s.consume) a v hp with hkept | ⟨code, info, hfault⟩
      · exact ⟨_, hkept, hp, rfl⟩
      · exact ⟨_, hfault, by simpa using hp, by simp⟩
  | blockStep => exact absurd hev hblock
  | assertReset => exact absurd hev hreset
  | releaseReset => exact ⟨_, step_of_releaseReset hev, hp, rfl⟩

/-- After its completion the destination holds the command's result (R103). -/
theorem State.complete_holds {s : State} {p : Pending} (hp : s.pending = some p) :
    s.complete.holds (p.result s.draws) := by
  rw [State.complete_pending hp]
  cases p.result s.draws <;> simp [State.writeBack, State.holds]

/-- A completion step is a run of one step that leaves the block idle with the result. -/
theorem run_one_completes {s : State} {p : Pending} (hp : s.pending = some p) (hev : s.nextEvent = .blockStep) :
    ∃ n t, Host.Core.run Sys2Proof.core 1 s = .next t ∧ t.pending = none ∧ t.holds (p.result n) := by
  obtain ⟨-, -, -, -, hidle, -⟩ := complete_frame s.consume
  exact ⟨_, _, core_run_of_step 0 (step_of_blockStep hev), hidle, State.complete_holds (s := s.consume) hp⟩

/-- Settles O34, by induction on the inputs to come: the first completion step, at the latest the one with no input
left, completes the command, and every step before it keeps the slot. -/
theorem acceptedCommandCompletes : Obligations.AcceptedCommandCompletes := by
  intro s p hp hreset
  induction hin : s.inputs generalizing s with
  | nil =>
    obtain ⟨n, t, hdone⟩ := run_one_completes hp (State.nextEvent_of_nil hin)
    exact ⟨1, n, t, by simp, hdone⟩
  | cons e rest ih =>
    have hev := State.nextEvent_of_cons hin
    by_cases hblock : s.nextEvent = .blockStep
    · obtain ⟨n, t, hdone⟩ := run_one_completes hp hblock
      exact ⟨1, n, t, by simp, hdone⟩
    · obtain ⟨hne, hrest⟩ : Event.assertReset ≠ e ∧ Event.assertReset ∉ rest := by simpa [hin] using hreset
      obtain ⟨t, hstep, hp', hin'⟩ := step_keeps_pending hp hblock (hev ▸ hne.symm)
      rw [hin, List.tail_cons] at hin'
      obtain ⟨k, n, u, hk, hrun, hdone⟩ := ih t hp' (hin' ▸ hrest) hin'
      exact ⟨k + 1, n, u, by simpa using hk, (core_run_of_step k hstep).trans hrun, hdone⟩

end Sys2Proof.Machine
end
